-- ==== Sys2Proof/Word.lean ====
section
/-! DEFINITION. The word types of the core: a long (32 bits), a word (16 bits) and a byte (R5, R6). -/
namespace Sys2Proof

/-- A 32-bit register or long (R5 `XLEN`). -/
abbrev Word := BitVec 32

/-- A 16-bit word: an opcode word, an extension word, the status register. -/
abbrev Half := BitVec 16

/-- A byte, the addressing unit of memory (R61). -/
abbrev Byte := BitVec 8

end Sys2Proof
end

