-- ==== Sys2Proof/Syntax.lean ====
section
/-! DEFINITION. The instructions: one constructor of Instr per row of spec/opcode_table.json, holding the fields of
the opcode word. Extension words are no part of an Instr: decoding looks at the opcode word only (R183), and each
meaning fetches the extension words where the pseudocode of its rule calls FetchWord (log 6). -/
namespace Sys2Proof

/-- Operand sizes B, W, L (R7). -/
inductive Size where
  | b
  | w
  | l
deriving DecidableEq, Repr

/-- The operand forms that exist in this core (R103): modes 0 to 6, and mode 7 registers 0 and 1.
Mode 7 registers 2 to 7 have no constructor: they are illegal in every instruction (R120, R150). -/
inductive Ea where
  /-- Mode 0, `Dn` (R141). -/
  | dn (n : Fin 8)
  /-- Mode 1, `An` (R142). -/
  | an (n : Fin 8)
  /-- Mode 2, `(An)` (R143). -/
  | ind (n : Fin 8)
  /-- Mode 3, `(An)+` (R144). -/
  | post (n : Fin 8)
  /-- Mode 4, `-(An)` (R145). -/
  | pre (n : Fin 8)
  /-- Mode 5, `d16(An)` (R146). -/
  | disp (n : Fin 8)
  /-- Mode 6, `d8(An,Xn.s)` (R147). -/
  | index (n : Fin 8)
  /-- Mode 7 register 0, `xxx.W` (R148). -/
  | absW
  /-- Mode 7 register 1, `xxx.L` (R149). -/
  | absL
deriving DecidableEq, Repr

/-- The sixteen conditions of R14, in the order of their codes. `cs`, `cc` are also named LO, HS. -/
inductive Cond where
  | t
  | f
  | hi
  | ls
  | cc
  | cs
  | ne
  | eq
  | vc
  | vs
  | pl
  | mi
  | ge
  | lt
  | gt
  | le
deriving DecidableEq, Repr

/-- The count of a register shift (R310): the 3-bit field as coded (0 means 8), or a data register. -/
inductive ShiftCount where
  | imm (c : Fin 8)
  | reg (m : Fin 8)
deriving DecidableEq, Repr

/-- The two forms of ADDX, SUBX, ABCD, SBCD (R108, bit 3): data registers, or memory through `-(Ay)`, `-(Ax)`. -/
inductive PairForm where
  | regs
  | mem
deriving DecidableEq, Repr

/-- The direction of MOVEP (R108, bit 7). -/
inductive MovepDir where
  | memToReg
  | regToMem
deriving DecidableEq, Repr

/-- One constructor per row of the opcode table (R117). Register numbers, small fields and conditions are the
opcode word's fields as coded. In two-register forms `x` is bits 11:9 and `y` is bits 2:0. -/
inductive Instr where
  | ori (sz : Size) (ea : Ea)
  | oriToCcr
  | oriToSr
  | andi (sz : Size) (ea : Ea)
  | andiToCcr
  | andiToSr
  | subi (sz : Size) (ea : Ea)
  | addi (sz : Size) (ea : Ea)
  | eori (sz : Size) (ea : Ea)
  | eoriToCcr
  | eoriToSr
  | cmpi (sz : Size) (ea : Ea)
  | btst (ea : Ea)
  | btstDn (n : Fin 8) (ea : Ea)
  | bchg (ea : Ea)
  | bchgDn (n : Fin 8) (ea : Ea)
  | bclr (ea : Ea)
  | bclrDn (n : Fin 8) (ea : Ea)
  | bset (ea : Ea)
  | bsetDn (n : Fin 8) (ea : Ea)
  | movep (dir : MovepDir) (sz : Size) (x y : Fin 8)
  | move (sz : Size) (src dst : Ea)
  | movea (sz : Size) (src : Ea) (n : Fin 8)
  | negx (sz : Size) (ea : Ea)
  | moveFromSr (ea : Ea)
  | chk (ea : Ea) (n : Fin 8)
  | lea (ea : Ea) (n : Fin 8)
  | clr (sz : Size) (ea : Ea)
  | neg (sz : Size) (ea : Ea)
  | moveToCcr (ea : Ea)
  | not (sz : Size) (ea : Ea)
  | moveToSr (ea : Ea)
  | nbcd (ea : Ea)
  | swap (n : Fin 8)
  | pea (ea : Ea)
  | extW (n : Fin 8)
  | extL (n : Fin 8)
  | movemToMem (sz : Size) (ea : Ea)
  | movemToRegs (sz : Size) (ea : Ea)
  | tst (sz : Size) (ea : Ea)
  | tas (ea : Ea)
  | illegal
  | trap (vec : Fin 16)
  | link (n : Fin 8)
  | unlk (n : Fin 8)
  | moveToUsp (n : Fin 8)
  | moveFromUsp (n : Fin 8)
  | reset
  | nop
  | stop
  | rte
  | rts
  | trapv
  | rtr
  | jsr (ea : Ea)
  | jmp (ea : Ea)
  | addq (sz : Size) (q : Fin 8) (ea : Ea)
  | subq (sz : Size) (q : Fin 8) (ea : Ea)
  | scc (cond : Cond) (ea : Ea)
  | dbcc (cond : Cond) (n : Fin 8)
  | bra (disp : Byte)
  | bsr (disp : Byte)
  | bcc (cond : Cond) (disp : Byte)
  | moveq (data : Byte) (n : Fin 8)
  | orEaDn (sz : Size) (ea : Ea) (n : Fin 8)
  | orDnEa (sz : Size) (n : Fin 8) (ea : Ea)
  | divu (ea : Ea) (n : Fin 8)
  | divs (ea : Ea) (n : Fin 8)
  | sbcd (form : PairForm) (x y : Fin 8)
  | subEaDn (sz : Size) (ea : Ea) (n : Fin 8)
  | subDnEa (sz : Size) (n : Fin 8) (ea : Ea)
  | subaW (ea : Ea) (n : Fin 8)
  | subaL (ea : Ea) (n : Fin 8)
  | subx (sz : Size) (form : PairForm) (x y : Fin 8)
  | cmp (sz : Size) (ea : Ea) (n : Fin 8)
  | cmpaW (ea : Ea) (n : Fin 8)
  | cmpaL (ea : Ea) (n : Fin 8)
  | eor (sz : Size) (n : Fin 8) (ea : Ea)
  | cmpm (sz : Size) (x y : Fin 8)
  | andEaDn (sz : Size) (ea : Ea) (n : Fin 8)
  | andDnEa (sz : Size) (n : Fin 8) (ea : Ea)
  | mulu (ea : Ea) (n : Fin 8)
  | muls (ea : Ea) (n : Fin 8)
  | abcd (form : PairForm) (x y : Fin 8)
  | exgDD (x y : Fin 8)
  | exgAA (x y : Fin 8)
  | exgDA (x y : Fin 8)
  | addEaDn (sz : Size) (ea : Ea) (n : Fin 8)
  | addDnEa (sz : Size) (n : Fin 8) (ea : Ea)
  | addaW (ea : Ea) (n : Fin 8)
  | addaL (ea : Ea) (n : Fin 8)
  | addx (sz : Size) (form : PairForm) (x y : Fin 8)
  | asrReg (sz : Size) (c : ShiftCount) (n : Fin 8)
  | asrMem (ea : Ea)
  | aslReg (sz : Size) (c : ShiftCount) (n : Fin 8)
  | aslMem (ea : Ea)
  | lsrReg (sz : Size) (c : ShiftCount) (n : Fin 8)
  | lsrMem (ea : Ea)
  | lslReg (sz : Size) (c : ShiftCount) (n : Fin 8)
  | lslMem (ea : Ea)
  | roxrReg (sz : Size) (c : ShiftCount) (n : Fin 8)
  | roxrMem (ea : Ea)
  | roxlReg (sz : Size) (c : ShiftCount) (n : Fin 8)
  | roxlMem (ea : Ea)
  | rorReg (sz : Size) (c : ShiftCount) (n : Fin 8)
  | rorMem (ea : Ea)
  | rolReg (sz : Size) (c : ShiftCount) (n : Fin 8)
  | rolMem (ea : Ea)
deriving DecidableEq, Repr

end Sys2Proof
end

