-- ==== Sys2Proof/WellFormed.lean ====
section
/-! DEFINITION. Which operand forms each instruction accepts: the classes of R103 and R158, and the size
restrictions of R102, R107, R117, R158. A term that fails a check has no opcode word (R118). -/
namespace Sys2Proof

/-- Class DATA: every form but `An` (R158). -/
def eaIsData : Ea → Bool
  | .an _ => false
  | _ => true

/-- Class MEM: the forms that designate memory (R158). -/
def eaIsMem : Ea → Bool
  | .dn _ | .an _ => false
  | _ => true

/-- Class CTRL: memory forms that step no register (R158). -/
def eaIsCtrl : Ea → Bool
  | .dn _ | .an _ | .post _ | .pre _ => false
  | _ => true

/-- Class CTRL_POST: control forms and `(An)+` (R158). -/
def eaIsCtrlPost : Ea → Bool
  | .dn _ | .an _ | .pre _ => false
  | _ => true

/-- Class CTRL_PRE: control forms and `-(An)` (R158). -/
def eaIsCtrlPre : Ea → Bool
  | .dn _ | .an _ | .post _ => false
  | _ => true

/-- Class ALL at a size: every form, `An` not with size B (R158). -/
def eaIsAll (sz : Size) : Ea → Bool
  | .an _ => sz != .b
  | _ => true

/-- Conditions of Bcc: codes 0010 to 1111 (R351; 0000 is BRA, 0001 is BSR). -/
def condIsBcc : Cond → Bool
  | .t | .f => false
  | _ => true

/-- The one-bit sizes of MOVEM, MOVEP, MOVEA: W and L (R102). -/
def sizeIsWL : Size → Bool
  | .b => false
  | _ => true

/-- An instruction term that has an opcode word (the constraints column of R117). -/
def Instr.wf : Instr → Bool
  | .ori _ ea | .andi _ ea | .subi _ ea | .addi _ ea | .eori _ ea | .cmpi _ ea => eaIsData ea
  | .oriToCcr | .oriToSr | .andiToCcr | .andiToSr | .eoriToCcr | .eoriToSr => true
  | .btst ea | .btstDn _ ea | .bchg ea | .bchgDn _ ea => eaIsData ea
  | .bclr ea | .bclrDn _ ea | .bset ea | .bsetDn _ ea => eaIsData ea
  | .movep _ sz _ _ => sizeIsWL sz
  | .move sz src dst => eaIsAll sz src && eaIsData dst
  | .movea sz _ _ => sizeIsWL sz
  | .negx _ ea | .clr _ ea | .neg _ ea | .not _ ea | .tst _ ea => eaIsData ea
  | .moveFromSr ea | .moveToCcr ea | .moveToSr ea | .nbcd ea | .tas ea => eaIsData ea
  | .chk ea _ => eaIsData ea
  | .lea ea _ | .pea ea | .jsr ea | .jmp ea => eaIsCtrl ea
  | .swap _ | .extW _ | .extL _ => true
  | .movemToMem sz ea => sizeIsWL sz && eaIsCtrlPre ea
  | .movemToRegs sz ea => sizeIsWL sz && eaIsCtrlPost ea
  | .illegal | .trap _ | .link _ | .unlk _ | .moveToUsp _ | .moveFromUsp _ => true
  | .reset | .nop | .stop | .rte | .rts | .trapv | .rtr => true
  | .addq sz _ ea | .subq sz _ ea => eaIsAll sz ea
  | .scc _ ea => eaIsData ea
  | .dbcc _ _ | .bra _ | .bsr _ | .moveq _ _ => true
  | .bcc c _ => condIsBcc c
  | .orEaDn _ ea _ | .andEaDn _ ea _ => eaIsData ea
  | .orDnEa _ _ ea | .andDnEa _ _ ea | .subDnEa _ _ ea | .addDnEa _ _ ea => eaIsMem ea
  | .divu ea _ | .divs ea _ | .mulu ea _ | .muls ea _ => eaIsData ea
  | .sbcd _ _ _ | .abcd _ _ _ | .subx _ _ _ _ | .addx _ _ _ _ | .cmpm _ _ _ => true
  | .subEaDn sz ea _ | .addEaDn sz ea _ | .cmp sz ea _ => eaIsAll sz ea
  | .subaW _ _ | .subaL _ _ | .addaW _ _ | .addaL _ _ | .cmpaW _ _ | .cmpaL _ _ => true
  | .eor _ _ ea => eaIsData ea
  | .exgDD _ _ | .exgAA _ _ | .exgDA _ _ => true
  | .asrReg _ _ _ | .aslReg _ _ _ | .lsrReg _ _ _ | .lslReg _ _ _ => true
  | .roxrReg _ _ _ | .roxlReg _ _ _ | .rorReg _ _ _ | .rolReg _ _ _ => true
  | .asrMem ea | .aslMem ea | .lsrMem ea | .lslMem ea => eaIsMem ea
  | .roxrMem ea | .roxlMem ea | .rorMem ea | .rolMem ea => eaIsMem ea

end Sys2Proof
end

