-- ==== Sys2Proof/Decode.lean ====
section
/-! DEFINITION. The decoder, a total function of the opcode word (R117, R183), and the encoder, both written from the
formats of R106 to R109 and the rows of R117. Fields are read and written as natural numbers. -/
namespace Sys2Proof

/-- Why an opcode word, or a list of bytes, is no instruction (R118, R119). All but `truncated` make ExecOne raise
IllegalInstruction. -/
inductive DecodeError where
  /-- Fewer than two bytes: no opcode word. -/
  | truncated
  /-- Line A, `0xAxxx` (R119). -/
  | lineA
  /-- Line F, `0xFxxx` (R119). -/
  | lineF
  /-- A word of another line that satisfies no row of R117 (R118). -/
  | unassigned
deriving DecidableEq, Repr

/-! ### Fields -/

/-- The `len` bits of `w` from bit `lo` up (R6). -/
def bitsAt (w lo len : Nat) : Nat := w / 2 ^ lo % 2 ^ len

/-- A 3-bit register number or small field. -/
def reg3 (k : Nat) : Fin 8 := Fin.ofNat 8 k

/-- The standard size field `ss` (R102); 11 is not a size. -/
def sizeOfSs : Nat → Option Size
  | 0 => some .b
  | 1 => some .w
  | 2 => some .l
  | _ => none

/-- The code of a size in the standard field. -/
def ssOfSize : Size → Nat
  | .b => 0
  | .w => 1
  | .l => 2

/-- The size field of MOVE and MOVEA (R102): 01 = B, 11 = W, 10 = L. -/
def sizeOfMove : Nat → Option Size
  | 1 => some .b
  | 3 => some .w
  | 2 => some .l
  | _ => none

/-- The code of a size in the MOVE field. -/
def moveOfSize : Size → Nat
  | .b => 1
  | .w => 3
  | .l => 2

/-- The one-bit size of MOVEM and MOVEP (R102): 0 = W, 1 = L. -/
def sizeOfBit (k : Nat) : Size := if k = 0 then .w else .l

/-- The code of a one-bit size. -/
def bitOfSize : Size → Nat
  | .l => 1
  | _ => 0

/-- The operand form of a mode and a register number (R103); none for mode 7 registers 2 to 7 (R120). -/
def eaOfModeReg (mode : Nat) (reg : Nat) : Option Ea :=
  match mode with
  | 0 => some (.dn (reg3 reg))
  | 1 => some (.an (reg3 reg))
  | 2 => some (.ind (reg3 reg))
  | 3 => some (.post (reg3 reg))
  | 4 => some (.pre (reg3 reg))
  | 5 => some (.disp (reg3 reg))
  | 6 => some (.index (reg3 reg))
  | _ => if reg = 0 then some .absW else if reg = 1 then some .absL else none

/-- The mode number of an operand form. -/
def eaMode : Ea → Nat
  | .dn _ => 0
  | .an _ => 1
  | .ind _ => 2
  | .post _ => 3
  | .pre _ => 4
  | .disp _ => 5
  | .index _ => 6
  | .absW | .absL => 7

/-- The register number of an operand form. -/
def eaReg : Ea → Nat
  | .dn n | .an n | .ind n | .post n | .pre n | .disp n | .index n => n.val
  | .absW => 0
  | .absL => 1

/-- The six-bit field mode, reg (bits 5:0 of most formats, R103). -/
def eaField (e : Ea) : Nat := eaMode e * 8 + eaReg e

/-- The operand form of bits 5:0, if it is in the class. -/
def eaIn (inClass : Ea → Bool) (w : Nat) : Option Ea :=
  match eaOfModeReg (bitsAt w 3 3) (bitsAt w 0 3) with
  | some e => if inClass e then some e else none
  | none => none

/-- The condition of a 4-bit code (R14). -/
def condOfCode : Nat → Cond
  | 0 => .t
  | 1 => .f
  | 2 => .hi
  | 3 => .ls
  | 4 => .cc
  | 5 => .cs
  | 6 => .ne
  | 7 => .eq
  | 8 => .vc
  | 9 => .vs
  | 10 => .pl
  | 11 => .mi
  | 12 => .ge
  | 13 => .lt
  | 14 => .gt
  | _ => .le

/-- The 4-bit code of a condition (R14). -/
def codeOfCond : Cond → Nat
  | .t => 0
  | .f => 1
  | .hi => 2
  | .ls => 3
  | .cc => 4
  | .cs => 5
  | .ne => 6
  | .eq => 7
  | .vc => 8
  | .vs => 9
  | .pl => 10
  | .mi => 11
  | .ge => 12
  | .lt => 13
  | .gt => 14
  | .le => 15

/-- An instruction from an optional operand form. -/
def withEa (e : Option Ea) (mk : Ea → Instr) : Option Instr := e.map mk

/-- An instruction from the standard size field of the word and an operand form in a class that may depend on
the size. -/
def withSizeEa (w : Nat) (inClass : Size → Ea → Bool) (mk : Size → Ea → Instr) : Option Instr :=
  match sizeOfSs (bitsAt w 6 2) with
  | some sz => (eaIn (inClass sz) w).map (mk sz)
  | none => none

/-- The form of ADDX, SUBX, ABCD, SBCD from bit 3 (R108). -/
def pairForm (w : Nat) : PairForm := if bitsAt w 3 1 = 0 then .regs else .mem

/-- Bit 3 of a form. -/
def pairBit : PairForm → Nat
  | .regs => 0
  | .mem => 1

/-! ### The lines (R110) -/

/-- Line 0: immediate arithmetic and logic, bit instructions, MOVEP. -/
def decodeLine0 (w : Nat) : Option Instr :=
  if bitsAt w 8 1 = 1 then
    if bitsAt w 3 3 = 1 then
      some (.movep (if bitsAt w 7 1 = 0 then .memToReg else .regToMem) (sizeOfBit (bitsAt w 6 1))
        (reg3 (bitsAt w 9 3)) (reg3 (bitsAt w 0 3)))
    else
      let n := reg3 (bitsAt w 9 3)
      let e := eaIn eaIsData w
      match bitsAt w 6 2 with
      | 0 => withEa e (.btstDn n)
      | 1 => withEa e (.bchgDn n)
      | 2 => withEa e (.bclrDn n)
      | _ => withEa e (.bsetDn n)
  else
    let data : Size → Ea → Bool := fun _ => eaIsData
    match bitsAt w 9 3 with
    | 0 => if w = 0x003C then some .oriToCcr else if w = 0x007C then some .oriToSr else withSizeEa w data .ori
    | 1 => if w = 0x023C then some .andiToCcr else if w = 0x027C then some .andiToSr else withSizeEa w data .andi
    | 2 => withSizeEa w data .subi
    | 3 => withSizeEa w data .addi
    | 4 =>
      let e := eaIn eaIsData w
      match bitsAt w 6 2 with
      | 0 => withEa e .btst
      | 1 => withEa e .bchg
      | 2 => withEa e .bclr
      | _ => withEa e .bset
    | 5 => if w = 0x0A3C then some .eoriToCcr else if w = 0x0A7C then some .eoriToSr else withSizeEa w data .eori
    | 6 => withSizeEa w data .cmpi
    | _ => none

/-- Lines 1 to 3: MOVE and MOVEA (R107). -/
def decodeMove (w : Nat) : Option Instr :=
  match sizeOfMove (bitsAt w 12 2) with
  | none => none
  | some sz =>
    match eaIn (eaIsAll sz) w with
    | none => none
    | some src =>
      if bitsAt w 6 3 = 1 then
        if sizeIsWL sz then some (.movea sz src (reg3 (bitsAt w 9 3))) else none
      else
        match eaOfModeReg (bitsAt w 6 3) (bitsAt w 9 3) with
        | none => none
        | some dst => some (.move sz src dst)

/-- The opcodes `0x4Exx` (traps, LINK, UNLK, USP moves, implied forms, JSR, JMP). -/
def decodeLine4E (w : Nat) : Option Instr :=
  let r := reg3 (bitsAt w 0 3)
  match bitsAt w 6 2 with
  | 1 =>
    match bitsAt w 3 3 with
    | 0 | 1 => some (.trap (Fin.ofNat 16 (bitsAt w 0 4)))
    | 2 => some (.link r)
    | 3 => some (.unlk r)
    | 4 => some (.moveToUsp r)
    | 5 => some (.moveFromUsp r)
    | 6 =>
      match bitsAt w 0 3 with
      | 0 => some .reset
      | 1 => some .nop
      | 2 => some .stop
      | 3 => some .rte
      | 5 => some .rts
      | 6 => some .trapv
      | 7 => some .rtr
      | _ => none
    | _ => none
  | 2 => withEa (eaIn eaIsCtrl w) .jsr
  | 3 => withEa (eaIn eaIsCtrl w) .jmp
  | _ => none

/-- Line 4: miscellaneous. -/
def decodeLine4 (w : Nat) : Option Instr :=
  let r := reg3 (bitsAt w 0 3)
  let data : Size → Ea → Bool := fun _ => eaIsData
  if bitsAt w 8 1 = 1 then
    match bitsAt w 6 2 with
    | 2 => withEa (eaIn eaIsData w) (fun e => .chk e (reg3 (bitsAt w 9 3)))
    | 3 => withEa (eaIn eaIsCtrl w) (fun e => .lea e (reg3 (bitsAt w 9 3)))
    | _ => none
  else
    match bitsAt w 9 3 with
    | 0 => if bitsAt w 6 2 = 3 then withEa (eaIn eaIsData w) .moveFromSr else withSizeEa w data .negx
    | 1 => withSizeEa w data .clr
    | 2 => if bitsAt w 6 2 = 3 then withEa (eaIn eaIsData w) .moveToCcr else withSizeEa w data .neg
    | 3 => if bitsAt w 6 2 = 3 then withEa (eaIn eaIsData w) .moveToSr else withSizeEa w data .not
    | 4 =>
      match bitsAt w 6 2 with
      | 0 => withEa (eaIn eaIsData w) .nbcd
      | 1 => if bitsAt w 3 3 = 0 then some (.swap r) else withEa (eaIn eaIsCtrl w) .pea
      | 2 => if bitsAt w 3 3 = 0 then some (.extW r) else withEa (eaIn eaIsCtrlPre w) (.movemToMem .w)
      | _ => if bitsAt w 3 3 = 0 then some (.extL r) else withEa (eaIn eaIsCtrlPre w) (.movemToMem .l)
    | 5 =>
      if w = 0x4AFC then some .illegal
      else if bitsAt w 6 2 = 3 then withEa (eaIn eaIsData w) .tas
      else withSizeEa w data .tst
    | 6 =>
      match bitsAt w 6 2 with
      | 2 => withEa (eaIn eaIsCtrlPost w) (.movemToRegs .w)
      | 3 => withEa (eaIn eaIsCtrlPost w) (.movemToRegs .l)
      | _ => none
    | _ => decodeLine4E w

/-- Line 5: ADDQ, SUBQ, Scc, DBcc. -/
def decodeLine5 (w : Nat) : Option Instr :=
  if bitsAt w 6 2 = 3 then
    let c := condOfCode (bitsAt w 8 4)
    if bitsAt w 3 3 = 1 then some (.dbcc c (reg3 (bitsAt w 0 3)))
    else withEa (eaIn eaIsData w) (.scc c)
  else
    let q := reg3 (bitsAt w 9 3)
    if bitsAt w 8 1 = 0 then withSizeEa w eaIsAll (fun sz e => .addq sz q e)
    else withSizeEa w eaIsAll (fun sz e => .subq sz q e)

/-- Line 6: BRA, BSR, Bcc (R109). -/
def decodeLine6 (w : Nat) : Option Instr :=
  let d : Byte := BitVec.ofNat 8 (bitsAt w 0 8)
  match bitsAt w 8 4 with
  | 0 => some (.bra d)
  | 1 => some (.bsr d)
  | c => some (.bcc (condOfCode c) d)

/-- Line 7: MOVEQ. -/
def decodeLine7 (w : Nat) : Option Instr :=
  if bitsAt w 8 1 = 0 then some (.moveq (BitVec.ofNat 8 (bitsAt w 0 8)) (reg3 (bitsAt w 9 3))) else none

/-- Line 8: OR, DIVU, DIVS, SBCD. -/
def decodeLine8 (w : Nat) : Option Instr :=
  let n := reg3 (bitsAt w 9 3)
  let data : Size → Ea → Bool := fun _ => eaIsData
  let mem : Size → Ea → Bool := fun _ => eaIsMem
  if bitsAt w 6 2 = 3 then
    if bitsAt w 8 1 = 0 then withEa (eaIn eaIsData w) (fun e => .divu e n)
    else withEa (eaIn eaIsData w) (fun e => .divs e n)
  else if bitsAt w 8 1 = 0 then withSizeEa w data (fun sz e => .orEaDn sz e n)
  else if bitsAt w 4 4 = 0 then some (.sbcd (pairForm w) n (reg3 (bitsAt w 0 3)))
  else withSizeEa w mem (fun sz e => .orDnEa sz n e)

/-- Lines 9 and D share their layout (R117): the two `<ea>` forms, the address-register forms, the X form. -/
def decodeAddSub (w : Nat) (eaDn : Size → Ea → Fin 8 → Instr) (dnEa : Size → Fin 8 → Ea → Instr)
    (aW aL : Ea → Fin 8 → Instr) (xForm : Size → PairForm → Fin 8 → Fin 8 → Instr) : Option Instr :=
  let n := reg3 (bitsAt w 9 3)
  let mem : Size → Ea → Bool := fun _ => eaIsMem
  if bitsAt w 6 2 = 3 then
    if bitsAt w 8 1 = 0 then withEa (eaIn (eaIsAll .w) w) (fun e => aW e n)
    else withEa (eaIn (eaIsAll .l) w) (fun e => aL e n)
  else if bitsAt w 8 1 = 0 then withSizeEa w eaIsAll (fun sz e => eaDn sz e n)
  else if bitsAt w 4 2 = 0 then
    match sizeOfSs (bitsAt w 6 2) with
    | some sz => some (xForm sz (pairForm w) n (reg3 (bitsAt w 0 3)))
    | none => none
  else withSizeEa w mem (fun sz e => dnEa sz n e)

/-- Line B: CMP, CMPA, EOR, CMPM. -/
def decodeLineB (w : Nat) : Option Instr :=
  let n := reg3 (bitsAt w 9 3)
  let data : Size → Ea → Bool := fun _ => eaIsData
  if bitsAt w 6 2 = 3 then
    if bitsAt w 8 1 = 0 then withEa (eaIn (eaIsAll .w) w) (fun e => .cmpaW e n)
    else withEa (eaIn (eaIsAll .l) w) (fun e => .cmpaL e n)
  else if bitsAt w 8 1 = 0 then withSizeEa w eaIsAll (fun sz e => .cmp sz e n)
  else if bitsAt w 3 3 = 1 then
    match sizeOfSs (bitsAt w 6 2) with
    | some sz => some (.cmpm sz n (reg3 (bitsAt w 0 3)))
    | none => none
  else withSizeEa w data (fun sz e => .eor sz n e)

/-- Line C: AND, MULU, MULS, ABCD, EXG. -/
def decodeLineC (w : Nat) : Option Instr :=
  let n := reg3 (bitsAt w 9 3)
  let y := reg3 (bitsAt w 0 3)
  let data : Size → Ea → Bool := fun _ => eaIsData
  let mem : Size → Ea → Bool := fun _ => eaIsMem
  if bitsAt w 6 2 = 3 then
    if bitsAt w 8 1 = 0 then withEa (eaIn eaIsData w) (fun e => .mulu e n)
    else withEa (eaIn eaIsData w) (fun e => .muls e n)
  else if bitsAt w 8 1 = 0 then withSizeEa w data (fun sz e => .andEaDn sz e n)
  else
    match bitsAt w 3 5 with
    | 0 => some (.abcd .regs n y)
    | 1 => some (.abcd .mem n y)
    | 8 => some (.exgDD n y)
    | 9 => some (.exgAA n y)
    | 17 => some (.exgDA n y)
    | _ => withSizeEa w mem (fun sz e => .andDnEa sz n e)

/-- Line E: shifts and rotates, register and memory forms (R106 SHIFTM, R108 SHIFTR). -/
def decodeLineE (w : Nat) : Option Instr :=
  if bitsAt w 6 2 = 3 then
    let e := eaIn eaIsMem w
    match bitsAt w 8 4 with
    | 0 => withEa e .asrMem
    | 1 => withEa e .aslMem
    | 2 => withEa e .lsrMem
    | 3 => withEa e .lslMem
    | 4 => withEa e .roxrMem
    | 5 => withEa e .roxlMem
    | 6 => withEa e .rorMem
    | 7 => withEa e .rolMem
    | _ => none
  else
    match sizeOfSs (bitsAt w 6 2) with
    | none => none
    | some sz =>
      let k := reg3 (bitsAt w 9 3)
      let c := if bitsAt w 5 1 = 0 then ShiftCount.imm k else ShiftCount.reg k
      let n := reg3 (bitsAt w 0 3)
      match bitsAt w 3 2, bitsAt w 8 1 with
      | 0, 0 => some (.asrReg sz c n)
      | 0, _ => some (.aslReg sz c n)
      | 1, 0 => some (.lsrReg sz c n)
      | 1, _ => some (.lslReg sz c n)
      | 2, 0 => some (.roxrReg sz c n)
      | 2, _ => some (.roxlReg sz c n)
      | _, 0 => some (.rorReg sz c n)
      | _, _ => some (.rolReg sz c n)

/-- The row of R117 that an opcode word below `0x10000` satisfies, if any. -/
def decodeWord (w : Nat) : Option Instr :=
  match bitsAt w 12 4 with
  | 0 => decodeLine0 w
  | 1 | 2 | 3 => decodeMove w
  | 4 => decodeLine4 w
  | 5 => decodeLine5 w
  | 6 => decodeLine6 w
  | 7 => decodeLine7 w
  | 8 => decodeLine8 w
  | 9 => decodeAddSub w .subEaDn .subDnEa .subaW .subaL .subx
  | 11 => decodeLineB w
  | 12 => decodeLineC w
  | 13 => decodeAddSub w .addEaDn .addDnEa .addaW .addaL .addx
  | 14 => decodeLineE w
  | _ => none

/-- The name under which a word with no row is rejected (R118, R119). -/
def rejectName (w : Nat) : DecodeError :=
  match bitsAt w 12 4 with
  | 10 => .lineA
  | 15 => .lineF
  | _ => .unassigned

/-- Decoding an opcode word: the instruction, or the name of the rejection (R117, R118). -/
def decodeOp (w : Half) : Except DecodeError Instr :=
  match decodeWord w.toNat with
  | some i => .ok i
  | none => .error (rejectName w.toNat)

/-- Decoding bytes: the opcode word is the first two, most significant first (R64, R100); the rest, where the
extension words stand, is handed back. -/
def decode : List Byte → Except DecodeError (Instr × List Byte)
  | hi :: lo :: rest =>
    match decodeOp (hi ++ lo) with
    | .ok i => .ok (i, rest)
    | .error e => .error e
  | _ => .error .truncated

/-! ### Encoding -/

/-- The IMM and EA1 layout: an opcode byte, the size field, the operand field (R106). -/
def encSizeEa (op : Nat) (sz : Size) (e : Ea) : Nat := op + ssOfSize sz * 64 + eaField e

/-- The REGEA layout with the size in 7:6 (R106). -/
def encRegEa (op : Nat) (n : Fin 8) (sz : Size) (e : Ea) : Nat := op + n.val * 512 + ssOfSize sz * 64 + eaField e

/-- A register in 11:9 and an operand field. -/
def encNEa (op : Nat) (n : Fin 8) (e : Ea) : Nat := op + n.val * 512 + eaField e

/-- The RR layout with registers in 11:9 and 2:0 (R108). -/
def encRR (op : Nat) (x : Fin 8) (y : Fin 8) : Nat := op + x.val * 512 + y.val

/-- The SHIFTR layout (R108): `op` holds the line, the direction and the type. -/
def encShift (op : Nat) (sz : Size) (c : ShiftCount) (n : Fin 8) : Nat :=
  match c with
  | .imm k => op + k.val * 512 + ssOfSize sz * 64 + n.val
  | .reg k => op + k.val * 512 + ssOfSize sz * 64 + 32 + n.val

/-- The opcode word of an instruction, as a number (R106 to R109, R117). -/
def encodeNat : Instr → Nat
  | .ori sz e => encSizeEa 0x0000 sz e
  | .oriToCcr => 0x003C
  | .oriToSr => 0x007C
  | .andi sz e => encSizeEa 0x0200 sz e
  | .andiToCcr => 0x023C
  | .andiToSr => 0x027C
  | .subi sz e => encSizeEa 0x0400 sz e
  | .addi sz e => encSizeEa 0x0600 sz e
  | .eori sz e => encSizeEa 0x0A00 sz e
  | .eoriToCcr => 0x0A3C
  | .eoriToSr => 0x0A7C
  | .cmpi sz e => encSizeEa 0x0C00 sz e
  | .btst e => 0x0800 + eaField e
  | .btstDn n e => encNEa 0x0100 n e
  | .bchg e => 0x0840 + eaField e
  | .bchgDn n e => encNEa 0x0140 n e
  | .bclr e => 0x0880 + eaField e
  | .bclrDn n e => encNEa 0x0180 n e
  | .bset e => 0x08C0 + eaField e
  | .bsetDn n e => encNEa 0x01C0 n e
  | .movep dir sz x y =>
    encRR 0x0108 x y + (match dir with | .memToReg => 0 | .regToMem => 128) + bitOfSize sz * 64
  | .move sz src dst => moveOfSize sz * 4096 + eaReg dst * 512 + eaMode dst * 64 + eaField src
  | .movea sz src n => moveOfSize sz * 4096 + n.val * 512 + 64 + eaField src
  | .negx sz e => encSizeEa 0x4000 sz e
  | .moveFromSr e => 0x40C0 + eaField e
  | .chk e n => encNEa 0x4180 n e
  | .lea e n => encNEa 0x41C0 n e
  | .clr sz e => encSizeEa 0x4200 sz e
  | .neg sz e => encSizeEa 0x4400 sz e
  | .moveToCcr e => 0x44C0 + eaField e
  | .not sz e => encSizeEa 0x4600 sz e
  | .moveToSr e => 0x46C0 + eaField e
  | .nbcd e => 0x4800 + eaField e
  | .swap n => 0x4840 + n.val
  | .pea e => 0x4840 + eaField e
  | .extW n => 0x4880 + n.val
  | .extL n => 0x48C0 + n.val
  | .movemToMem sz e => 0x4880 + bitOfSize sz * 64 + eaField e
  | .movemToRegs sz e => 0x4C80 + bitOfSize sz * 64 + eaField e
  | .tst sz e => encSizeEa 0x4A00 sz e
  | .tas e => 0x4AC0 + eaField e
  | .illegal => 0x4AFC
  | .trap v => 0x4E40 + v.val
  | .link n => 0x4E50 + n.val
  | .unlk n => 0x4E58 + n.val
  | .moveToUsp n => 0x4E60 + n.val
  | .moveFromUsp n => 0x4E68 + n.val
  | .reset => 0x4E70
  | .nop => 0x4E71
  | .stop => 0x4E72
  | .rte => 0x4E73
  | .rts => 0x4E75
  | .trapv => 0x4E76
  | .rtr => 0x4E77
  | .jsr e => 0x4E80 + eaField e
  | .jmp e => 0x4EC0 + eaField e
  | .addq sz q e => encRegEa 0x5000 q sz e
  | .subq sz q e => encRegEa 0x5100 q sz e
  | .scc c e => 0x50C0 + codeOfCond c * 256 + eaField e
  | .dbcc c n => 0x50C8 + codeOfCond c * 256 + n.val
  | .bra d => 0x6000 + d.toNat
  | .bsr d => 0x6100 + d.toNat
  | .bcc c d => 0x6000 + codeOfCond c * 256 + d.toNat
  | .moveq d n => 0x7000 + n.val * 512 + d.toNat
  | .orEaDn sz e n => encRegEa 0x8000 n sz e
  | .orDnEa sz n e => encRegEa 0x8100 n sz e
  | .divu e n => encNEa 0x80C0 n e
  | .divs e n => encNEa 0x81C0 n e
  | .sbcd f x y => encRR 0x8100 x y + pairBit f * 8
  | .subEaDn sz e n => encRegEa 0x9000 n sz e
  | .subDnEa sz n e => encRegEa 0x9100 n sz e
  | .subaW e n => encNEa 0x90C0 n e
  | .subaL e n => encNEa 0x91C0 n e
  | .subx sz f x y => encRR 0x9100 x y + ssOfSize sz * 64 + pairBit f * 8
  | .cmp sz e n => encRegEa 0xB000 n sz e
  | .cmpaW e n => encNEa 0xB0C0 n e
  | .cmpaL e n => encNEa 0xB1C0 n e
  | .eor sz n e => encRegEa 0xB100 n sz e
  | .cmpm sz x y => encRR 0xB108 x y + ssOfSize sz * 64
  | .andEaDn sz e n => encRegEa 0xC000 n sz e
  | .andDnEa sz n e => encRegEa 0xC100 n sz e
  | .mulu e n => encNEa 0xC0C0 n e
  | .muls e n => encNEa 0xC1C0 n e
  | .abcd f x y => encRR 0xC100 x y + pairBit f * 8
  | .exgDD x y => encRR 0xC140 x y
  | .exgAA x y => encRR 0xC148 x y
  | .exgDA x y => encRR 0xC188 x y
  | .addEaDn sz e n => encRegEa 0xD000 n sz e
  | .addDnEa sz n e => encRegEa 0xD100 n sz e
  | .addaW e n => encNEa 0xD0C0 n e
  | .addaL e n => encNEa 0xD1C0 n e
  | .addx sz f x y => encRR 0xD100 x y + ssOfSize sz * 64 + pairBit f * 8
  | .asrReg sz c n => encShift 0xE000 sz c n
  | .asrMem e => 0xE0C0 + eaField e
  | .aslReg sz c n => encShift 0xE100 sz c n
  | .aslMem e => 0xE1C0 + eaField e
  | .lsrReg sz c n => encShift 0xE008 sz c n
  | .lsrMem e => 0xE2C0 + eaField e
  | .lslReg sz c n => encShift 0xE108 sz c n
  | .lslMem e => 0xE3C0 + eaField e
  | .roxrReg sz c n => encShift 0xE010 sz c n
  | .roxrMem e => 0xE4C0 + eaField e
  | .roxlReg sz c n => encShift 0xE110 sz c n
  | .roxlMem e => 0xE5C0 + eaField e
  | .rorReg sz c n => encShift 0xE018 sz c n
  | .rorMem e => 0xE6C0 + eaField e
  | .rolReg sz c n => encShift 0xE118 sz c n
  | .rolMem e => 0xE7C0 + eaField e

/-- The opcode word of an instruction. -/
def encodeOp (i : Instr) : Half := BitVec.ofNat 16 (encodeNat i)

/-- The bytes of an opcode word, most significant first (R64). -/
def bytesOfHalf (w : Half) : List Byte := [w.extractLsb' 8 8, w.extractLsb' 0 8]

/-- The encoder: the bytes of the instruction's opcode word. -/
def encode (i : Instr) : List Byte := bytesOfHalf (encodeOp i)

/-! ### Reading a word numbered as the opcode table numbers it -/

/-- The longest instruction is five words (R100). -/
def maxWords : Nat := 5

/-- The words of an instruction whose bits are `w` below bit `nbits` and 0 above: word k is bits 16k+15 to 16k. -/
def tableWords (nbits w : Nat) : List Half :=
  (List.range maxWords).map (fun k => BitVec.ofNat 16 (w % 2 ^ nbits / 2 ^ (16 * k)))

/-- The bytes of those words as they stand in memory. -/
def tableBytes (nbits w : Nat) : List Byte := (tableWords nbits w).flatMap bytesOfHalf

/-- The instruction the decoder reads from a word numbered as spec/opcode_table.json numbers its bits. -/
def decodeTableWord (nbits w : Nat) : Option Instr :=
  match decode (tableBytes nbits w) with
  | .ok (i, _) => some i
  | .error _ => none

end Sys2Proof
end

