-- ==== Sys2Proof/Machine/Bits.lean ====
section
/-! DEFINITION. Sizes, truncation, extension and byte order (R7, R8, R64): the helpers the meanings share. A value of
size sz is held in a long whose bits above the size are 0. -/
namespace Sys2Proof.Machine

/-- `bits(sz)` (R7). -/
def sizeBits : Size → Nat
  | .b => 8
  | .w => 16
  | .l => 32

/-- `bytes(sz)` (R7). -/
def sizeBytes : Size → Nat
  | .b => 1
  | .w => 2
  | .l => 4

/-- `trunc_sz(v)` (R7). -/
def trunc : Size → Word → Word
  | .b, v => (v.setWidth 8).setWidth 32
  | .w, v => (v.setWidth 16).setWidth 32
  | .l, v => v

/-- `sext_32` of a value of size sz (R8). -/
def sext : Size → Word → Word
  | .b, v => (v.setWidth 8).signExtend 32
  | .w, v => (v.setWidth 16).signExtend 32
  | .l, v => v

/-- `v[msb(sz)]` (R7). -/
def msb (sz : Size) (v : Word) : Bool := v.getLsbD (sizeBits sz - 1)

/-- A long whose low `bits(sz)` bits are those of `v` and whose upper bits are those of `old`: a byte or word write to
a register (R9, R154). -/
def mergeLow : Size → Word → Word → Word
  | .b, old, v => old.extractLsb' 8 24 ++ v.extractLsb' 0 8
  | .w, old, v => old.extractLsb' 16 16 ++ v.extractLsb' 0 16
  | .l, _, v => v

/-- `sext_32` of a 16-bit word (R113). -/
def sextHalf (w : Half) : Word := w.signExtend 32

/-- `sext_32` of a byte (R112, R113). -/
def sextByte (b : Byte) : Word := b.signExtend 32

/-- The low byte of a word (R111, R116). -/
def lowByte (w : Half) : Byte := w.extractLsb' 0 8

/-- A long from its bytes, most significant first (R64). -/
def longOfBytes (b0 b1 b2 b3 : Byte) : Word := b0 ++ b1 ++ b2 ++ b3

/-- A word from its bytes, most significant first (R64). -/
def halfOfBytes (b0 b1 : Byte) : Half := b0 ++ b1

/-- Byte k of a value stored in `sizeBytes sz` bytes, counted from the lowest address: byte 0 is the most significant
(R64, R66). -/
def byteOf (sz : Size) (v : Word) (k : Nat) : Byte := v.extractLsb' (8 * (sizeBytes sz - 1 - k)) 8

/-- The value of a quick or count field: 0 means 8 (R112). -/
def quickValue (q : Fin 8) : Nat := if q.val = 0 then 8 else q.val

/-- `signed(v)` of a 16-bit word held in a long (R8). -/
def signedWord (v : Word) : Int := (v.setWidth 16).toInt

end Sys2Proof.Machine
end

