-- ==== Sys2Proof/Config.lean ====
section
/-! DEFINITION. What an implementation fixes (the parameters of R5 that are OPEN, or listed in U11), as plain data;
and the free values of the specification (U1, U2, U4, U12), as constants without a body. -/
namespace Sys2Proof

/-- The direction of an access (R37). -/
inductive Dir where
  | read
  | write
deriving DecidableEq, Repr

/-- One access handed to the device oracle (R77): its direction, masked address, width and value
(for a read, the value the device answered). -/
structure DevEvent where
  dir   : Dir
  addr  : Nat
  size  : Size
  value : Word
deriving DecidableEq, Repr

/-- One reserved window of hardware-register addresses, `lo` to `hi` inclusive (R5 `HW_WINDOWS`), with the ranges
inside it that have a handler; an address of the window outside them reads all ones (R78). -/
structure Window where
  lo       : Nat
  hi       : Nat
  handlers : List (Nat × Nat)
deriving DecidableEq, Repr

/-- The parameters of the model (R5, U11). Held in State and changed by no transition, so that a statement about
every state is a statement about every value of the parameters (log 5). -/
structure Config where
  /-- `ADDR_BITS`: the implemented width of the bus address. -/
  addrBits       : Nat
  /-- `RAM_TOP`: the first byte address above RAM. -/
  ramTop         : Nat
  /-- `HW_WINDOWS`. -/
  windows        : List Window
  /-- `GUARD_LOW`: writes to masked addresses below it are fatal host errors. -/
  guardLow       : Nat
  /-- `GUARD_TOP`: addresses whose write is a fatal host error. -/
  guardTop       : List Nat
  /-- `AUTOVECTOR_BASE`. -/
  autovectorBase : BitVec 8
  /-- `LINEA_VECTOR`. -/
  lineAVector    : BitVec 8
  /-- `LINEF_VECTOR`. -/
  lineFVector    : BitVec 8
  /-- `DATA_ALIGN_FAULT`. -/
  dataAlignFault : Bool
deriving DecidableEq, Repr

/-- The parameter values of R5, with the test platform of 95_test_vectors section 0 where R5 gives no default
(DESIGN CHOICE: `ramTop`, `windows`; log 5). -/
def Config.default : Config where
  addrBits       := 24
  ramTop         := 0x100000
  windows        := []
  guardLow       := 0
  guardTop       := []
  autovectorBase := 24
  lineAVector    := 4
  lineFVector    := 4
  dataAlignFault := true

/-- The free values of U1, U2, U4: the k-th value drawn. Nothing constrains it (log 4). -/
opaque Config.freeValue : Nat → Half

/-- What the device oracle answers to a read of a handled window address, given every access made to it before
(newest first), the masked address and the width. Nothing constrains it (U12, log 3). -/
opaque Config.deviceRead : List DevEvent → Nat → Size → Word

/-- The interrupt level a device handler raises before it returns from the newest access of the history; 0 where it
raises none (R77, R410). Nothing constrains it (U12, log 3). -/
opaque Config.deviceIrq : List DevEvent → BitVec 3

end Sys2Proof
end

