-- ==== Sys2Proof/Machine/State.lean ====
section
/-! DEFINITION. The state of the core (10_state), as plain data: every register, the pending-fault state, memory,
the device oracle's state and the parameters; the reasons a step can stop; and the state after reset (R44, R460).
Beside them the named update of each field; reads and writes of a state go through these and through Machine/Ops. -/
namespace Sys2Proof.Machine

/-- The five condition-code flags X N Z V C (R28). -/
structure Ccr where
  x : Bool
  n : Bool
  z : Bool
  v : Bool
  c : Bool
deriving DecidableEq, Repr

/-- The context of a bad access (R37 `badCtx`). -/
inductive AccessCtx where
  | instruction
  | data
deriving DecidableEq, Repr

/-- The state of the machine. -/
structure State where
  /-- D0 to D7 (R20). -/
  d           : Vector Word 8
  /-- A0 to A7; A7 is the active stack pointer (R21, R22). -/
  a           : Vector Word 8
  /-- The user stack pointer shadow; stale while it is the live one (R23). -/
  usp         : Word
  /-- The supervisor stack pointer shadow; stale while it is the live one (R23). -/
  ssp         : Word
  /-- The program counter, 32 bits, never masked (R25). -/
  pc          : Word
  /-- SR.T (R28). -/
  t           : Bool
  /-- SR.S: true in supervisor mode (R28). -/
  sup         : Bool
  /-- SR.I, the interrupt mask (R28). -/
  imask       : BitVec 3
  /-- X N Z V C (R28). -/
  ccr         : Ccr
  /-- The pending exception vector, 0 = none (R34). -/
  pendVec     : BitVec 8
  /-- The pending interrupt level, 0 = none (R35). -/
  ipl         : BitVec 3
  /-- The trace-pending flag (R36). -/
  tracePend   : Bool
  /-- The address of the last bad access (R37). -/
  badAddr     : Word
  /-- Its direction (R37). -/
  badDir      : Dir
  /-- The value of SR.S when it was made (R37). -/
  badS        : Bool
  /-- Whether it was an instruction or a data access (R37). -/
  badCtx      : AccessCtx
  /-- Instructions the current executeChunk may still begin (R38). -/
  budget      : Nat
  /-- The saved count (R38, R188). -/
  budgetSaved : Nat
  /-- The transient signal flag (R39). -/
  attention   : Bool
  /-- The STOP state (R40). -/
  halted      : Bool
  /-- The opcode word most recently fetched (R41). -/
  ir          : Half
  /-- RAM (R75) in its canonical form: addresses strictly rising, no byte 0 listed; an unlisted byte is 0 (log 2). -/
  mem         : List Host.Cell
  /-- The device oracle's state (R184): the accesses handed to it, newest first (log 3). -/
  devLog      : List DevEvent
  /-- The model's own: how many free values have been drawn (log 4). -/
  drawn       : Nat
  /-- The model's own: the parameters of R5 (log 5). -/
  config      : Config
deriving DecidableEq, Repr

/-- Why the run ends with a model fault, or is stuck. -/
inductive Fault where
  /-- An AddressError raised during the delivery of vector 3 (R426, U14). Raised by delivery; safe: the
  specification ends the run there. -/
  | doubleFault
  /-- A write caught by the fatal-write guard (R79, U15). Raised by any MemWrite; safe: the specification ends the run
  there; never with the default parameters. -/
  | fatalHostError
  /-- No transition exists: the program counter is odd (R186, U13). Raised by the step; safe: the specification calls
  the state stuck. -/
  | stuckOddPc
deriving DecidableEq, Repr

/-- Why a step has no meaning. Every one but `notModelled` is the treatment "refuse" of 93_implementation_defined. -/
inductive Refusal where
  /-- The instruction has no meaning in this model yet. Answered by a refused arm of exec; safe. -/
  | notModelled (mnemonic : String)
  /-- A word or long data access at an odd address while `DATA_ALIGN_FAULT` is false (U3). Answered by MemRead and
  MemWrite; safe: the specification leaves it unspecified, and it never arises with the default parameters. -/
  | misalignedData
  /-- An access whose bytes fall in two regions or pass the top of the address space (U6). Answered by MemRead,
  MemWrite and MemFetch; safe: the specification leaves it unspecified. -/
  | regionStraddle
  /-- An opcode or extension word fetched from a device window (U7). Answered by MemFetch; safe: the specification
  leaves it unspecified. -/
  | fetchFromWindow
  /-- executeChunk only: deliveries kept being enabled at one boundary, which a device window over the stack or the
  vector table can cause (U9). Answered by `settle`; safe: outside the specification's claims. -/
  | settleUnbounded
  /-- Host operations only: a move the host interface does not have, such as level 0, or a misaligned host access
  (R195, U10). Safe: outside the specification's claims. -/
  | hostMisuse
deriving DecidableEq, Repr

/-! ### Named updates, one per field -/

/-- Data register n (R20). -/
def State.dreg (s : State) (n : Fin 8) : Word := s.d.get n

/-- Address register n (R21). -/
def State.areg (s : State) (n : Fin 8) : Word := s.a.get n

def State.setD (s : State) (n : Fin 8) (v : Word) : State := { s with d := s.d.set n.val v n.isLt }
def State.setA (s : State) (n : Fin 8) (v : Word) : State := { s with a := s.a.set n.val v n.isLt }
def State.setUsp (s : State) (v : Word) : State := { s with usp := v }
def State.setSsp (s : State) (v : Word) : State := { s with ssp := v }
def State.setPc (s : State) (v : Word) : State := { s with pc := v }
def State.setT (s : State) (v : Bool) : State := { s with t := v }
def State.setSup (s : State) (v : Bool) : State := { s with sup := v }
def State.setImask (s : State) (v : BitVec 3) : State := { s with imask := v }
def State.setCcr (s : State) (v : Ccr) : State := { s with ccr := v }
def State.setPendVec (s : State) (v : BitVec 8) : State := { s with pendVec := v }
def State.setIpl (s : State) (v : BitVec 3) : State := { s with ipl := v }
def State.setTracePend (s : State) (v : Bool) : State := { s with tracePend := v }
def State.setBad (s : State) (addr : Word) (dir : Dir) (sup : Bool) (ctx : AccessCtx) : State :=
  { s with badAddr := addr, badDir := dir, badS := sup, badCtx := ctx }
def State.setBudget (s : State) (now saved : Nat) : State := { s with budget := now, budgetSaved := saved }
def State.setAttention (s : State) (v : Bool) : State := { s with attention := v }
def State.setHalted (s : State) (v : Bool) : State := { s with halted := v }
def State.setIr (s : State) (v : Half) : State := { s with ir := v }
def State.setMem (s : State) (v : List Host.Cell) : State := { s with mem := v }
def State.setDevLog (s : State) (v : List DevEvent) : State := { s with devLog := v }
def State.setDrawn (s : State) (v : Nat) : State := { s with drawn := v }
def State.setConfig (s : State) (v : Config) : State := { s with config := v }

/-! ### Reset -/

/-- The machine right after reset (R44, R460): supervisor, no trace, mask 7, nothing pending, not halted, SSP and A7
the long at address 0 and pc the long at address 4 (both 0 in the empty memory, log 2); what R44 leaves unspecified
is 0, false, read, data (DESIGN CHOICE, log 1); the parameters are `Config.default` (log 5). -/
def State.reset : State where
  d           := Vector.replicate 8 0
  a           := Vector.replicate 8 0
  usp         := 0
  ssp         := 0
  pc          := 0
  t           := false
  sup         := true
  imask       := 7
  ccr         := { x := false, n := false, z := false, v := false, c := false }
  pendVec     := 0
  ipl         := 0
  tracePend   := false
  badAddr     := 0
  badDir      := .read
  badS        := false
  badCtx      := .data
  budget      := 0
  budgetSaved := 0
  attention   := false
  halted      := false
  ir          := 0
  mem         := []
  devLog      := []
  drawn       := 0
  config      := Config.default

end Sys2Proof.Machine
end

