-- ==== Sys2Proof/Machine/Ops.lean ====
section
/-! DEFINITION. The named operations over memory and registers: routing, MemRead, MemWrite, MemFetch (20_memory),
FetchWord, Push, Pop (R10), SetPC (R27), GetSR, SetSR, SetCCR (R30 to R32), raise (R402), the opcode fetch (R182),
taking an exception (R420) and returning from one (R381). -/
namespace Sys2Proof.Machine

/-! ### Memory cells (R65, R75) -/

/-- The canonical form of memory: addresses strictly rising, no byte 0 listed (0 is what an unlisted byte reads as). -/
abbrev Memory.wf (m : List Host.Cell) : Prop :=
  m.Pairwise (fun c c' => c.1 < c'.1) ∧ ∀ c ∈ m, c.2 ≠ 0

/-- The byte at an address; 0 where the address is not listed (DESIGN CHOICE, log 2). -/
def Memory.get : List Host.Cell → Nat → Byte
  | [], _ => 0
  | (k, v) :: rest, a => if k = a then v else Memory.get rest a

/-- The cells of every other address. -/
def Memory.erase (m : List Host.Cell) (a : Nat) : List Host.Cell := m.filter (fun c => c.1 != a)

/-- A cell put before the first cell of a higher address. -/
def Memory.insert : List Host.Cell → Host.Cell → List Host.Cell
  | [], c => [c]
  | c' :: rest, c => if c.1 < c'.1 then c :: c' :: rest else c' :: Memory.insert rest c

/-- Storing a byte; storing 0 removes the entry. -/
def Memory.put (m : List Host.Cell) (a : Nat) (v : Byte) : List Host.Cell :=
  if v = 0 then Memory.erase m a else Memory.insert (Memory.erase m a) (a, v)

/-- The big-endian value of `sizeBytes sz` bytes from an address (R64). -/
def Memory.load (m : List Host.Cell) (sz : Size) (a : Nat) : Word :=
  match sz with
  | .b => (Memory.get m a).setWidth 32
  | .w => (halfOfBytes (Memory.get m a) (Memory.get m (a + 1))).setWidth 32
  | .l => longOfBytes (Memory.get m a) (Memory.get m (a + 1)) (Memory.get m (a + 2)) (Memory.get m (a + 3))

/-- Storing the low `sizeBytes sz` bytes of a value, most significant at the lowest address (R64, R66). -/
def Memory.store (m : List Host.Cell) (sz : Size) (a : Nat) (v : Word) : List Host.Cell :=
  match sz with
  | .b => Memory.put m a (byteOf .b v 0)
  | .w => Memory.put (Memory.put m a (byteOf .w v 0)) (a + 1) (byteOf .w v 1)
  | .l =>
    Memory.put (Memory.put (Memory.put (Memory.put m a (byteOf .l v 0)) (a + 1) (byteOf .l v 1)) (a + 2)
      (byteOf .l v 2)) (a + 3) (byteOf .l v 3)

/-! ### Routing (R62, R74) -/

/-- The three kinds of address (R74). -/
inductive Region where
  | ram
  | hole
  | window
deriving DecidableEq, Repr

/-- Whether an address is in a reserved window (R74). -/
def inWindows (c : Config) (am : Nat) : Bool := c.windows.any (fun w => decide (w.lo ≤ am) && decide (am ≤ w.hi))

/-- Whether an address has a device handler in a window that holds it (R78). -/
def handled (c : Config) (am : Nat) : Bool :=
  c.windows.any (fun w => decide (w.lo ≤ am) && decide (am ≤ w.hi) &&
    w.handlers.any (fun r => decide (r.1 ≤ am) && decide (am ≤ r.2)))

/-- `Route` of one byte address (R74). -/
def regionAt (c : Config) (am : Nat) : Region :=
  if inWindows c am then .window else if am < c.ramTop then .ram else .hole

/-- An address as the bus sees it: masked with `ADDR_MASK` (R62). -/
def busAddr (c : Config) (addr : Word) : Nat := addr.toNat % 2 ^ c.addrBits

/-- Every byte of an access of n bytes at a masked address is in one region and below the top of the space (R74, U6). -/
def oneRegion (c : Config) (am n : Nat) : Bool :=
  decide (am + n ≤ 2 ^ c.addrBits) && (List.range n).all (fun k => decide (regionAt c (am + k) = regionAt c am))

/-- Bit 0 of an address is 1. -/
def isOdd (addr : Word) : Bool := addr.getLsbD 0

/-- A byte access may be anywhere, a word or long access must be at an even address (R68). -/
def aligned (sz : Size) (addr : Word) : Bool := sz == .b || !isOdd addr

/-- The fatal-write guard does not catch a write to this masked address (R79). -/
def guardFree (c : Config) (am : Nat) : Bool := decide (c.guardLow ≤ am) && !c.guardTop.contains am

/-! ### Signalling (R188, R410) -/

/-- Setting the attention flag; the remaining budget moves into the saved count, unless it is already 0 (R188, D40). -/
def State.signal (s : State) : State :=
  (if s.budget = 0 then s else s.setBudget 0 s.budget).setAttention true

/-- `raiseInterrupt(level)`: overwrites the pending level (R410). -/
def State.raiseInterrupt (s : State) (level : BitVec 3) : State := (s.setIpl level).signal

/-- An access handed to the device oracle: it joins the history, and the handler may raise an interrupt before it
returns (R77, U12). -/
def State.deviceEvent (s : State) (ev : DevEvent) : State :=
  let s' := s.setDevLog (ev :: s.devLog)
  let level := Config.deviceIrq (ev :: s.devLog)
  if level = 0 then s' else s'.raiseInterrupt level

/-! ### What an access answers and does, when it is made -/

/-- The value a data read of this size at this address answers (R66): RAM's bytes, 0 in the hole (R76), all ones where
a window has no handler (R78), else the device's answer (R77). -/
def State.loadValue (s : State) (sz : Size) (addr : Word) : Word :=
  let am := busAddr s.config addr
  match regionAt s.config am with
  | .ram => Memory.load s.mem sz am
  | .hole => 0
  | .window => trunc sz (if handled s.config am then Config.deviceRead s.devLog am sz else BitVec.allOnes 32)

/-- The state after that read: only one in a device window changes anything, and every one there, with a handler or
without, is handed to the oracle once (R66, R72, R77). -/
def State.afterLoad (s : State) (sz : Size) (addr : Word) : State :=
  let am := busAddr s.config addr
  if regionAt s.config am = .window then
    s.deviceEvent { dir := .read, addr := am, size := sz, value := s.loadValue sz addr }
  else s

/-- The state after a data write (R66): RAM's bytes, nothing in the hole (R76), the device in a window (R77). -/
def State.afterStore (s : State) (sz : Size) (addr : Word) (v : Word) : State :=
  let am := busAddr s.config addr
  match regionAt s.config am with
  | .ram => s.setMem (Memory.store s.mem sz am v)
  | .hole => s
  | .window => s.deviceEvent { dir := .write, addr := am, size := sz, value := trunc sz v }

/-- The instruction-stream word at an address (R67): RAM's two bytes; 0 in the hole. -/
def State.wordAt (s : State) (addr : Word) : Half :=
  let am := busAddr s.config addr
  match regionAt s.config am with
  | .ram => halfOfBytes (Memory.get s.mem am) (Memory.get s.mem (am + 1))
  | _ => 0

/-- Word k of the instruction stream from pc on. -/
def State.streamWord (s : State) (k : Nat) : Half := s.wordAt (s.pc + BitVec.ofNat 32 (2 * k))

/-! ### Instructions as sequences of operations (R15) -/

/-- Why a sequence of operations ends early: a `raise` (the state stays as it is then, R15), a model fault, a
refusal. -/
inductive Stop where
  | raised
  | fault (r : Fault)
  | refusal (r : Refusal)
deriving DecidableEq, Repr

/-- Operations in the order written, each keeping the effects of the ones before it when one ends the sequence (R15,
D9). -/
abbrev M := EStateM Stop State

/-- `raise E` for an exception other than AddressError: the vector is recorded, attention is signalled, the rest is
abandoned; nothing is stacked (R402). -/
def raise {α : Type} (v : BitVec 8) : M α := fun s => .error .raised (s.setPendVec v).signal

/-- `raise AddressError(addr, dir)` (R402, R403). -/
def raiseAddress {α : Type} (addr : Word) (dir : Dir) (ctx : AccessCtx) : M α := fun s =>
  .error .raised ((s.setPendVec 3).setBad addr dir s.sup ctx).signal

/-- Ending a sequence with a model fault. -/
def failWith {α : Type} (r : Fault) : M α := fun s => .error (.fault r) s

/-- Ending a sequence with a refusal. -/
def refuse {α : Type} (r : Refusal) : M α := fun s => .error (.refusal r) s

/-- `MemRead(addr, n)` in data context (R66, R69): an odd word or long address raises AddressError before any bus
activity; a straddling access is refused (U6). -/
def memRead (sz : Size) (addr : Word) : M Word := fun s =>
  if !aligned sz addr then
    if s.config.dataAlignFault then raiseAddress addr .read .data s else refuse .misalignedData s
  else if !oneRegion s.config (busAddr s.config addr) (sizeBytes sz) then refuse .regionStraddle s
  else .ok (s.loadValue sz addr) (s.afterLoad sz addr)

/-- `MemWrite(addr, n, v)` in data context (R66, R69, R79). -/
def memWrite (sz : Size) (addr : Word) (v : Word) : M Unit := fun s =>
  if !aligned sz addr then
    if s.config.dataAlignFault then raiseAddress addr .write .data s else refuse .misalignedData s
  else if !guardFree s.config (busAddr s.config addr) then failWith .fatalHostError s
  else if !oneRegion s.config (busAddr s.config addr) (sizeBytes sz) then refuse .regionStraddle s
  else .ok () (s.afterStore sz addr v)

/-- `MemFetch(addr)`, the instruction-stream read (R67). -/
def memFetch (addr : Word) : M Half := fun s =>
  if isOdd addr then raiseAddress addr .read .instruction s
  else if !oneRegion s.config (busAddr s.config addr) 2 then refuse .regionStraddle s
  else if regionAt s.config (busAddr s.config addr) = .window then refuse .fetchFromWindow s
  else .ok (s.wordAt addr) s

/-- `FetchWord()` (R10). -/
def fetchWord : M Half := do
  let w ← memFetch (← get).pc
  modify (fun s => s.setPc (s.pc + 2))
  pure w

/-- `FetchLong()` (R10): the first word is bits 31:16. -/
def fetchLong : M Word := do
  let hi ← fetchWord
  let lo ← fetchWord
  pure (hi ++ lo)

/-- `Push(n, v)`: SP is decremented, then the value is written (R10, D9). -/
def push (sz : Size) (v : Word) : M Unit := do
  modify (fun s => s.setA 7 (s.areg 7 - BitVec.ofNat 32 (sizeBytes sz)))
  memWrite sz ((← get).areg 7) v

/-- `Pop(n)`: the value is read, then SP is incremented (R10, D9). -/
def pop (sz : Size) : M Word := do
  let v ← memRead sz ((← get).areg 7)
  modify (fun s => s.setA 7 (s.areg 7 + BitVec.ofNat 32 (sizeBytes sz)))
  pure v

/-- `SetPC(target)`: an odd target raises AddressError and leaves pc unmodified (R27). -/
def loadPc (target : Word) : M Unit := fun s =>
  if isOdd target then raiseAddress target .read .instruction s else .ok () (s.setPc target)

/-- Back to the opcode word, before IllegalInstruction and PrivilegeViolation (R376, R404). -/
def State.rewindPc (s : State) : State := s.setPc (s.pc - 2)

/-- `pc <- pc - 2; raise IllegalInstruction` with the vector given (R404, R387). -/
def raiseIllegal {α : Type} (v : BitVec 8) : M α := do
  modify State.rewindPc
  raise v

/-- Drawing a free value (U1, U2, U4; log 4). -/
def drawFree : M Half := fun s => .ok (Config.freeValue s.drawn) (s.setDrawn (s.drawn + 1))

/-! ### The status register (R28 to R32) -/

/-- The five flags as the low five bits of a byte (R30). -/
def ccrBits (c : Ccr) : BitVec 5 :=
  BitVec.ofBool c.x ++ BitVec.ofBool c.n ++ BitVec.ofBool c.z ++ BitVec.ofBool c.v ++ BitVec.ofBool c.c

/-- The flags from bits 4 to 0 of a word; bits 7:5 are discarded (R31, R32). -/
def ccrOf (v : Half) : Ccr where
  x := v.getLsbD 4
  n := v.getLsbD 3
  z := v.getLsbD 2
  v := v.getLsbD 1
  c := v.getLsbD 0

/-- `GetSR()` (R30). -/
def State.getSr (s : State) : Half :=
  BitVec.ofBool s.t ++ 0#1 ++ BitVec.ofBool s.sup ++ 0#2 ++ s.imask ++ 0#3 ++ ccrBits s.ccr

/-- The stack-pointer swap of a change of the supervisor bit (R31, R421): the live A7 goes into the shadow of the old
mode and the shadow of the new mode into A7; nothing moves where the bit does not change. -/
def State.switchMode (s : State) (newS : Bool) : State :=
  if newS = s.sup then s
  else if s.sup then ((s.setSsp (s.areg 7)).setA 7 s.usp).setSup newS
  else ((s.setUsp (s.areg 7)).setA 7 s.ssp).setSup newS

/-- `SetSR(v)` (R31): bits 14, 12, 11, 7, 6, 5 are discarded. -/
def State.putSr (s : State) (v : Half) : State :=
  (((s.switchMode (v.getLsbD 13)).setT (v.getLsbD 15)).setImask (v.extractLsb' 8 3)).setCcr (ccrOf v)

/-- `SetCCR(v)` (R32). -/
def State.putCcr (s : State) (v : Half) : State := s.setCcr (ccrOf v)

/-- `RequireSupervisor`, the first line of every privileged instruction (R376): in user mode pc goes back to the
opcode word and PrivilegeViolation (vector 8) is raised. -/
def requireSupervisor : M Unit := do
  if !(← get).sup then
    modify State.rewindPc
    raise 8

/-! ### Taking an exception and returning from one -/

/-- The composite status value of the address-error frame (R423): bit 4 read, bit 2 supervisor origin, bits 1:0 10 for
an instruction access and 01 for a data access. -/
def State.badStatus (s : State) : Half :=
  0#11 ++ BitVec.ofBool (s.badDir == .read) ++ 0#1 ++ BitVec.ofBool s.badS ++
    (match s.badCtx with | .instruction => 2#2 | .data => 1#2)

/-- The three extra items of the address-error frame (R423). -/
def pushBadAccess : M Unit := do
  push .w ((← get).ir.setWidth 32)
  push .l (← get).badAddr
  push .w ((← get).badStatus.setWidth 32)

/-- The address of a vector's slot (R84). -/
def vectorSlot (v : BitVec 8) : Word := BitVec.ofNat 32 (4 * v.toNat)

/-- What a delivery changes before it touches memory (R420, D13): not halted, supervisor mode on the supervisor stack,
T cleared, the mask raised for an interrupt. -/
def State.enterHandler (s : State) (level : Option (BitVec 3)) : State :=
  let s' := ((s.setHalted false).switchMode true).setT false
  match level with
  | some l => s'.setImask l
  | none => s'

/-- `Deliver(v, L)`, the delivery protocol of every exception, trace and interrupt (R420): the SR snapshot is taken
first, the return pc and the snapshot are pushed on the supervisor stack, vector 3 pushes three further items, and pc
is loaded from the vector's slot. -/
def deliver (v : BitVec 8) (level : Option (BitVec 3)) : M Unit := do
  let snap := (← get).getSr
  modify (fun s => s.enterHandler level)
  push .l (← get).pc
  push .w (snap.setWidth 32)
  if v = 3 then pushBadAccess
  let target ← memRead .l (vectorSlot v)
  loadPc target

/-- Undoing the six-byte frame (R381, R429): SR at SP, pc at SP + 2. -/
def returnFromException : M Unit := do
  let sr ← memRead .w ((← get).areg 7)
  let target ← memRead .l ((← get).areg 7 + 2)
  modify (fun s => s.setA 7 (s.areg 7 + 6))
  modify (fun s => s.putSr (sr.setWidth 16))
  loadPc target

/-- A delivery as a transition: an AddressError raised inside it is pending afterwards (R425), unless it was the
delivery of vector 3 itself, which is the model fault of R426. -/
def deliverAs (v : BitVec 8) (level : Option (BitVec 3)) (s : State) : Host.Outcome State Fault Refusal :=
  match deliver v level s with
  | .ok _ t => .next t
  | .error .raised t => if v = 3 then .fault .doubleFault else .next t
  | .error (.fault r) _ => .fault r
  | .error (.refusal r) _ => .refused r

/-- DeliverException (R417): the pending vector is cleared before the delivery's own accesses. -/
def deliverException (s : State) : Host.Outcome State Fault Refusal := deliverAs s.pendVec none (s.setPendVec 0)

/-- DeliverTrace (R418). -/
def deliverTrace (s : State) : Host.Outcome State Fault Refusal := deliverAs 9 none (s.setTracePend false)

/-- DeliverInterrupt (R419, R412): the request is consumed; the vector is `AUTOVECTOR_BASE` + level. -/
def deliverInterrupt (s : State) : Host.Outcome State Fault Refusal :=
  deliverAs (s.config.autovectorBase + s.ipl.setWidth 8) (some s.ipl) (s.setIpl 0)

/-- A pending level is accepted when it is 7 or above the mask (R411). -/
def State.interruptAccepted (s : State) : Bool :=
  s.ipl != 0 && (s.ipl == 7 || decide (s.imask.toNat < s.ipl.toNat))

/-! ### The opcode fetch, and a sequence as a transition -/

/-- FetchOpcode (R182): the trace latch is loaded from T (and signals, R188), then the opcode word goes into `ir` and pc
past it. -/
def fetchOpcode : M Unit := do
  modify (fun s => if s.t then (s.setTracePend true).signal else s.setTracePend false)
  let w ← memFetch (← get).pc
  modify (fun s => (s.setIr w).setPc (s.pc + 2))

/-- A sequence of operations as an outcome: a raised exception is a next state, in which it is pending (R402). -/
def run (m : M Unit) (s : State) : Host.Outcome State Fault Refusal :=
  match m s with
  | .ok _ t => .next t
  | .error .raised t => .next t
  | .error (.fault r) _ => .fault r
  | .error (.refusal r) _ => .refused r

/-! ### Placing an instruction -/

/-- The bytes stored one after the other from an address, each at its masked address. -/
def placeBytes (s : State) (addr : Word) : List Byte → State
  | [] => s
  | b :: bs => placeBytes (s.setMem (Memory.put s.mem (busAddr s.config addr) b)) (addr + 1) bs

end Sys2Proof.Machine
end

