-- ==== Sys2Proof/Machine/Flags.lean ====
section
/-! DEFINITION. The condition-code helpers of R13, the condition tests of R14, and what each group of instructions
writes to the flags. -/
namespace Sys2Proof.Machine

/-- A result with its carry and its overflow. -/
structure AluResult where
  r : Word
  c : Bool
  v : Bool
deriving DecidableEq, Repr

/-- `ADDF(sz, s, d, xin)` (R13): d + s + xin; operands truncated to sz. -/
def addF (sz : Size) (s d : Word) (xin : Bool) : AluResult :=
  let full := d.toNat + s.toNat + xin.toNat
  let r := BitVec.ofNat 32 (full % 2 ^ sizeBits sz)
  { r := r
    c := decide (2 ^ sizeBits sz ≤ full)
    v := msb sz s == msb sz d && msb sz r != msb sz d }

/-- `SUBF(sz, s, d, xin)` (R13): d - s - xin; operands truncated to sz. -/
def subF (sz : Size) (s d : Word) (xin : Bool) : AluResult :=
  let full : Int := (d.toNat : Int) - s.toNat - xin.toNat
  let r := BitVec.ofInt 32 (full % 2 ^ sizeBits sz)
  { r := r
    c := decide (full < 0)
    v := msb sz s != msb sz d && msb sz r != msb sz d }

/-- `LOGIC(sz, r)` (R13): N Z from the result, V and C cleared, X unchanged. -/
def ccrLogic (sz : Size) (r : Word) (old : Ccr) : Ccr :=
  { x := old.x, n := msb sz r, z := r == 0, v := false, c := false }

/-- Flags of ADD, SUB, NEG and their immediate and quick forms (R241): X is C. -/
def ccrArith (sz : Size) (o : AluResult) : Ccr :=
  { x := o.c, n := msb sz o.r, z := o.r == 0, v := o.v, c := o.c }

/-- Flags of ADDX, SUBX, NEGX (R241): Z is cleared by a result that is not zero and unchanged otherwise. -/
def ccrArithX (sz : Size) (o : AluResult) (old : Ccr) : Ccr :=
  { x := o.c, n := msb sz o.r, z := o.r == 0 && old.z, v := o.v, c := o.c }

/-- Flags of CMP, CMPA, CMPI, CMPM (R241): X unchanged. -/
def ccrCompare (sz : Size) (o : AluResult) (old : Ccr) : Ccr :=
  { x := old.x, n := msb sz o.r, z := o.r == 0, v := o.v, c := o.c }

/-- Flags of MULU, MULS and of a division that succeeds (R242, R243): N and Z as given, V and C cleared. -/
def ccrMulDiv (n z : Bool) (old : Ccr) : Ccr :=
  { x := old.x, n := n, z := z, v := false, c := false }

/-- `cond(cc)` (R14). -/
def condHolds (f : Ccr) : Cond → Bool
  | .t => true
  | .f => false
  | .hi => !f.c && !f.z
  | .ls => f.c || f.z
  | .cc => !f.c
  | .cs => f.c
  | .ne => !f.z
  | .eq => f.z
  | .vc => !f.v
  | .vs => f.v
  | .pl => !f.n
  | .mi => f.n
  | .ge => f.n == f.v
  | .lt => f.n != f.v
  | .gt => !f.z && f.n == f.v
  | .le => f.z || f.n != f.v

end Sys2Proof.Machine
end

