-- ==== Sys2Proof/Machine/Operands.lean ====
section
/-! DEFINITION. The effective-address resolver (40_effective_address), general registers by number (R9), immediates
(R111), register masks (R115) and the other operand words. What an operand form designates and does is given by plain
functions of the state, which the operations of this file use and statements may use too. -/
namespace Sys2Proof.Machine

/-! ### General registers x[0..15] (R9) -/

/-- `x[i]`: D0 to D7 for 0 to 7, A0 to A7 for 8 to 15 (R9, D39). -/
def State.xreg (s : State) (i : Fin 16) : Word :=
  if h : i.val < 8 then s.dreg ⟨i.val, h⟩ else s.areg (Fin.ofNat 8 i.val)

/-- `x[i] <- v`, all 32 bits (R9). -/
def State.setX (s : State) (i : Fin 16) (v : Word) : State :=
  if h : i.val < 8 then s.setD ⟨i.val, h⟩ v else s.setA (Fin.ofNat 8 i.val) v

/-! ### Handles (R140) -/

/-- The EffectiveAddressResult (R42, R140): a register, `Reg(n)` or `Reg(8 + n)`, or `Mem(a)`. -/
inductive Handle where
  | data (n : Fin 8)
  | addr (n : Fin 8)
  | mem (a : Word)
deriving DecidableEq, Repr

/-- The step of modes 3 and 4 (R151): a byte through A7 steps by 2. -/
def eaStep (sz : Size) (n : Fin 8) : Word :=
  if sz = .b ∧ n = 7 then 2 else BitVec.ofNat 32 (sizeBytes sz)

/-- Extension words of an operand form (R104). -/
def eaWords : Ea → Nat
  | .disp _ | .index _ | .absW => 1
  | .absL => 2
  | _ => 0

/-- The index contribution of a mode 6 extension word (R105, R147): bits 15:12 number the register, bit 11 selects
all 32 bits or the sign-extended low half; bits 10:8 are ignored. -/
def indexValue (s : State) (e : Half) : Word :=
  let x := s.xreg (Fin.ofNat 16 (e.extractLsb' 12 4).toNat)
  if e.getLsbD 11 then x else sext .w x

/-- What an operand form designates in the state before its extension words are fetched (R141 to R149); the extension
words are the next words of the instruction stream. -/
def eaHandle (sz : Size) (e : Ea) (s : State) : Handle :=
  match e with
  | .dn n => .data n
  | .an n => .addr n
  | .ind n => .mem (s.areg n)
  | .post n => .mem (s.areg n)
  | .pre n => .mem (s.areg n - eaStep sz n)
  | .disp n => .mem (s.areg n + sextHalf (s.streamWord 0))
  | .index n => .mem (s.areg n + indexValue s (s.streamWord 0) + sextByte (lowByte (s.streamWord 0)))
  | .absW => .mem (sextHalf (s.streamWord 0))
  | .absL => .mem (s.streamWord 0 ++ s.streamWord 1)

/-- The register side effect of a resolution, made exactly once: modes 3 and 4 (R144, R145). -/
def eaSideEffect (sz : Size) (e : Ea) (s : State) : State :=
  match e with
  | .post n => s.setA n (s.areg n + eaStep sz n)
  | .pre n => s.setA n (s.areg n - eaStep sz n)
  | _ => s

/-- The state after k words of the instruction stream have been fetched (R10, R26). -/
def State.afterWords (s : State) (k : Nat) : State := s.setPc (s.pc + BitVec.ofNat 32 (2 * k))

/-- The state after a resolution. -/
def eaAfter (sz : Size) (e : Ea) (s : State) : State := eaSideEffect sz e (s.afterWords (eaWords e))

/-- Fetching k words of the instruction stream (R10). -/
def fetchWords : Nat → M Unit
  | 0 => pure ()
  | k + 1 => do
    let _ ← fetchWord
    fetchWords k

/-- `EA(mode, reg, sz)`, the resolver's resolve (R141 to R149): the extension words are fetched, then modes 3 and 4
step their register. -/
def resolve (sz : Size) (e : Ea) : M Handle := do
  let h := eaHandle sz e (← get)
  fetchWords (eaWords e)
  modify (fun s => eaSideEffect sz e s)
  pure h

/-- `Read(h, sz)` of a register, or the value a memory read answers (R153). -/
def handleValue (sz : Size) (h : Handle) (s : State) : Word :=
  match h with
  | .data n => trunc sz (s.dreg n)
  | .addr n => trunc sz (s.areg n)
  | .mem a => s.loadValue sz a

/-- The state after `Read(h, sz)` (R153). -/
def handleAfterRead (sz : Size) (h : Handle) (s : State) : State :=
  match h with
  | .mem a => s.afterLoad sz a
  | _ => s

/-- The state after `Write(h, sz, v)` (R154): the upper bits of a data register are unchanged. -/
def handleAfterWrite (sz : Size) (h : Handle) (v : Word) (s : State) : State :=
  match h with
  | .data n => s.setD n (mergeLow sz (s.dreg n) v)
  | .addr n => s.setA n v
  | .mem a => s.afterStore sz a v

/-- `Read(h, sz)` (R153). -/
def readH (sz : Size) (h : Handle) : M Word :=
  match h with
  | .mem a => memRead sz a
  | h => do pure (handleValue sz h (← get))

/-- `Write(h, sz, v)` (R154). -/
def writeH (sz : Size) (h : Handle) (v : Word) : M Unit :=
  match h with
  | .mem a => memWrite sz a v
  | h => modify (fun s => handleAfterWrite sz h v s)

/-- `h <- EA(mode, reg, sz); v <- Read(h, sz)`: an operand that is only read. -/
def readEa (sz : Size) (e : Ea) : M Word := do
  let h ← resolve sz e
  readH sz h

/-- `EAaddr(mode, reg)` (R156): the address, without an access. A form that is not a control mode has no address here
and raises IllegalInstruction (R157); decoding never lets one through. -/
def eaAddress (e : Ea) : M Word := do
  if !eaIsCtrl e then raiseIllegal 4
  match ← resolve .l e with
  | .mem a => pure a
  | _ => raiseIllegal 4

/-! ### Operand words that follow the opcode (R101) -/

/-- The value of an immediate that starts at the next word of the stream (R111): byte, word or long. -/
def immValue (sz : Size) (s : State) : Word :=
  match sz with
  | .b => (lowByte (s.streamWord 0)).setWidth 32
  | .w => (s.streamWord 0).setWidth 32
  | .l => s.streamWord 0 ++ s.streamWord 1

/-- Words an immediate takes (R111). -/
def immWords : Size → Nat
  | .l => 2
  | _ => 1

/-- Fetching an immediate (R111). -/
def fetchImm (sz : Size) : M Word := do
  let v := immValue sz (← get)
  fetchWords (immWords sz)
  pure v

/-- The displacement of a branch (R350, R351): the 8-bit field, or the following word when the field is 0. -/
def branchDisp (disp : Byte) (s : State) : Word :=
  if disp = 0 then sextHalf (s.streamWord 0) else sextByte disp

/-- Extension words of a branch (R109). -/
def branchWords (disp : Byte) : Nat := if disp = 0 then 1 else 0

/-- Fetching a branch's displacement: the extension word is fetched whether or not the branch is taken (R351). -/
def fetchBranchDisp (disp : Byte) : M Word := do
  let d := branchDisp disp (← get)
  fetchWords (branchWords disp)
  pure d

/-- The registers a normal mask selects, D0 first (R115). -/
def maskRegs (mask : Half) : List (Fin 16) := (List.finRange 16).filter (fun i => mask.getLsbD i.val)

/-- The registers a reversed mask selects, A7 first (R115): bit i selects x[15-i]. -/
def maskRegsReversed (mask : Half) : List (Fin 16) :=
  ((List.finRange 16).filter (fun i => mask.getLsbD i.val)).map (fun i => Fin.ofNat 16 (15 - i.val))

/-- The count of a register shift (R310): 1 to 8, or a data register modulo 64. -/
def shiftCount (c : ShiftCount) (s : State) : Nat :=
  match c with
  | .imm k => quickValue k
  | .reg m => (s.dreg m).toNat % 64

/-! ### Writing a data register and the flags -/

/-- `D[n][msb(sz):0] <- v` (R9): the upper bits are unchanged. -/
def putD (sz : Size) (n : Fin 8) (v : Word) : M Unit := modify (fun s => s.setD n (mergeLow sz (s.dreg n) v))

/-- `D[n][msb(sz):0]`. -/
def getD (sz : Size) (n : Fin 8) : M Word := do pure (trunc sz ((← get).dreg n))

/-- New flags from the old ones. -/
def putFlags (f : Ccr → Ccr) : M Unit := modify (fun s => s.setCcr (f s.ccr))

end Sys2Proof.Machine
end

