-- ==== Sys2Proof/Machine/Arithmetic.lean ====
section
/-! DEFINITION. Integer arithmetic instructions (43_integer_arithmetic). -/
namespace Sys2Proof.Machine

/-- A two-operand computation with its flags: ADDF or SUBF (R13). -/
abbrev AluOp := Size → Word → Word → Bool → AluResult

/-- `op <ea>,Dn` (R244, R249): the source is the operand, the destination the register. -/
def aluEaDn (f : AluOp) (sz : Size) (ea : Ea) (n : Fin 8) : M Unit := do
  let s ← readEa sz ea
  let d ← getD sz n
  let o := f sz s d false
  putD sz n o.r
  putFlags (fun _ => ccrArith sz o)

/-- `op Dn,<ea>` (R244, R249): a read-modify-write of the operand (R155). -/
def aluDnEa (f : AluOp) (sz : Size) (n : Fin 8) (ea : Ea) : M Unit := do
  let h ← resolve sz ea
  let d ← readH sz h
  let s ← getD sz n
  let o := f sz s d false
  writeH sz h o.r
  putFlags (fun _ => ccrArith sz o)

/-- `op #imm,<ea>` (R246, R251): the immediate comes before the operand's extension words. -/
def aluImmEa (f : AluOp) (sz : Size) (ea : Ea) : M Unit := do
  let imm ← fetchImm sz
  let h ← resolve sz ea
  let d ← readH sz h
  let o := f sz imm d false
  writeH sz h o.r
  putFlags (fun _ => ccrArith sz o)

/-- `op #q,<ea>` for an operand that is not An (R247, R252). -/
def aluQuickEa (f : AluOp) (sz : Size) (q : Fin 8) (ea : Ea) : M Unit := do
  let h ← resolve sz ea
  let d ← readH sz h
  let o := f sz (BitVec.ofNat 32 (quickValue q)) d false
  writeH sz h o.r
  putFlags (fun _ => ccrArith sz o)

/-- The two forms of ADDX and SUBX (R248, R253): registers, or memory with Ay stepped and read before Ax is. -/
def aluX (f : AluOp) (sz : Size) (form : PairForm) (x y : Fin 8) : M Unit := do
  match form with
  | .regs =>
    let s ← getD sz y
    let d ← getD sz x
    let o := f sz s d (← get).ccr.x
    putD sz x o.r
    putFlags (fun old => ccrArithX sz o old)
  | .mem =>
    let s ← readEa sz (.pre y)
    let hd ← resolve sz (.pre x)
    let d ← readH sz hd
    let o := f sz s d (← get).ccr.x
    writeH sz hd o.r
    putFlags (fun old => ccrArithX sz o old)

/-- ADD <ea>,Dn (R244). -/
def execAddEaDn (sz : Size) (ea : Ea) (n : Fin 8) (s : State) : Host.Outcome State Fault Refusal :=
  run (aluEaDn addF sz ea n) s

/-- ADD Dn,<ea> (R244). -/
def execAddDnEa (sz : Size) (n : Fin 8) (ea : Ea) (s : State) : Host.Outcome State Fault Refusal :=
  run (aluDnEa addF sz n ea) s

/-- ADDA.W (R245): the source is sign-extended; An is read after the operand is resolved; no flags. -/
def execAddaW (ea : Ea) (n : Fin 8) (s : State) : Host.Outcome State Fault Refusal :=
  run (do
    let v ← readEa .w ea
    modify (fun s => s.setA n (s.areg n + sext .w v))) s

/-- ADDA.L (R245). -/
def execAddaL (ea : Ea) (n : Fin 8) (s : State) : Host.Outcome State Fault Refusal :=
  run (do
    let v ← readEa .l ea
    modify (fun s => s.setA n (s.areg n + v))) s

/-- ADDI (R246). -/
def execAddi (sz : Size) (ea : Ea) (s : State) : Host.Outcome State Fault Refusal :=
  run (aluImmEa addF sz ea) s

/-- ADDQ (R247): to An, all 32 bits whatever the size, and no flags. -/
def execAddq (sz : Size) (q : Fin 8) (ea : Ea) (s : State) : Host.Outcome State Fault Refusal :=
  match ea with
  | .an n => run (modify (fun s => s.setA n (s.areg n + BitVec.ofNat 32 (quickValue q)))) s
  | e => run (aluQuickEa addF sz q e) s

/-- ADDX (R248). -/
def execAddx (sz : Size) (form : PairForm) (x y : Fin 8) (s : State) : Host.Outcome State Fault Refusal :=
  run (aluX addF sz form x y) s

/-- SUB <ea>,Dn (R249). -/
def execSubEaDn (sz : Size) (ea : Ea) (n : Fin 8) (s : State) : Host.Outcome State Fault Refusal :=
  run (aluEaDn subF sz ea n) s

/-- SUB Dn,<ea> (R249). -/
def execSubDnEa (sz : Size) (n : Fin 8) (ea : Ea) (s : State) : Host.Outcome State Fault Refusal :=
  run (aluDnEa subF sz n ea) s

/-- SUBA.W (R250). -/
def execSubaW (ea : Ea) (n : Fin 8) (s : State) : Host.Outcome State Fault Refusal :=
  run (do
    let v ← readEa .w ea
    modify (fun s => s.setA n (s.areg n - sext .w v))) s

/-- SUBA.L (R250). -/
def execSubaL (ea : Ea) (n : Fin 8) (s : State) : Host.Outcome State Fault Refusal :=
  run (do
    let v ← readEa .l ea
    modify (fun s => s.setA n (s.areg n - v))) s

/-- SUBI (R251). -/
def execSubi (sz : Size) (ea : Ea) (s : State) : Host.Outcome State Fault Refusal :=
  run (aluImmEa subF sz ea) s

/-- SUBQ (R252). -/
def execSubq (sz : Size) (q : Fin 8) (ea : Ea) (s : State) : Host.Outcome State Fault Refusal :=
  match ea with
  | .an n => run (modify (fun s => s.setA n (s.areg n - BitVec.ofNat 32 (quickValue q)))) s
  | e => run (aluQuickEa subF sz q e) s

/-- SUBX (R253). -/
def execSubx (sz : Size) (form : PairForm) (x y : Fin 8) (s : State) : Host.Outcome State Fault Refusal :=
  run (aluX subF sz form x y) s

/-- NEG (R254): 0 - operand. -/
def execNeg (sz : Size) (ea : Ea) (s : State) : Host.Outcome State Fault Refusal :=
  run (do
    let h ← resolve sz ea
    let d ← readH sz h
    let o := subF sz d 0 false
    writeH sz h o.r
    putFlags (fun _ => ccrArith sz o)) s

/-- NEGX (R255): 0 - operand - X. -/
def execNegx (sz : Size) (ea : Ea) (s : State) : Host.Outcome State Fault Refusal :=
  run (do
    let h ← resolve sz ea
    let d ← readH sz h
    let o := subF sz d 0 (← get).ccr.x
    writeH sz h o.r
    putFlags (fun old => ccrArithX sz o old)) s

/-- EXT.W (R256): byte to word; the upper half is unchanged. -/
def execExtW (n : Fin 8) (s : State) : Host.Outcome State Fault Refusal :=
  run (do
    let r := trunc .w (sext .b ((← get).dreg n))
    putD .w n r
    putFlags (ccrLogic .w r)) s

/-- EXT.L (R256): word to long. -/
def execExtL (n : Fin 8) (s : State) : Host.Outcome State Fault Refusal :=
  run (do
    let r := sext .w ((← get).dreg n)
    putD .l n r
    putFlags (ccrLogic .l r)) s

/-- CLR (R257): the destination is written and not read (D24). -/
def execClr (sz : Size) (ea : Ea) (s : State) : Host.Outcome State Fault Refusal :=
  run (do
    let h ← resolve sz ea
    writeH sz h 0
    putFlags (ccrLogic sz 0)) s

/-- CMP (R258): flags of Dn - operand; nothing is stored. -/
def execCmp (sz : Size) (ea : Ea) (n : Fin 8) (s : State) : Host.Outcome State Fault Refusal :=
  run (do
    let v ← readEa sz ea
    let d ← getD sz n
    putFlags (ccrCompare sz (subF sz v d false))) s

/-- CMPA.W (R259): the source is sign-extended and 32 bits are compared. -/
def execCmpaW (ea : Ea) (n : Fin 8) (s : State) : Host.Outcome State Fault Refusal :=
  run (do
    let v ← readEa .w ea
    let d := (← get).areg n
    putFlags (ccrCompare .l (subF .l (sext .w v) d false))) s

/-- CMPA.L (R259). -/
def execCmpaL (ea : Ea) (n : Fin 8) (s : State) : Host.Outcome State Fault Refusal :=
  run (do
    let v ← readEa .l ea
    let d := (← get).areg n
    putFlags (ccrCompare .l (subF .l v d false))) s

/-- CMPI (R260). -/
def execCmpi (sz : Size) (ea : Ea) (s : State) : Host.Outcome State Fault Refusal :=
  run (do
    let imm ← fetchImm sz
    let d ← readEa sz ea
    putFlags (ccrCompare sz (subF sz imm d false))) s

/-- CMPM (R261): the source is read and Ay stepped first. -/
def execCmpm (sz : Size) (x y : Fin 8) (s : State) : Host.Outcome State Fault Refusal :=
  run (do
    let v ← readEa sz (.post y)
    let d ← readEa sz (.post x)
    putFlags (ccrCompare sz (subF sz v d false))) s

/-- TST (R262): one read, no write. -/
def execTst (sz : Size) (ea : Ea) (s : State) : Host.Outcome State Fault Refusal :=
  run (do
    let v ← readEa sz ea
    putFlags (ccrLogic sz v)) s

/-- The 32-bit product of two unsigned words (R242, R263). -/
def mulUnsigned (s d : Word) : Word := BitVec.ofNat 32 ((trunc .w s).toNat * (trunc .w d).toNat)

/-- The 32-bit product of two signed words (R242, R264). -/
def mulSigned (s d : Word) : Word := BitVec.ofInt 32 (signedWord s * signedWord d)

/-- MULU (R263). -/
def execMulu (ea : Ea) (n : Fin 8) (s : State) : Host.Outcome State Fault Refusal :=
  run (do
    let v ← readEa .w ea
    let r := mulUnsigned v ((← get).dreg n)
    modify (fun s => s.setD n r)
    putFlags (ccrMulDiv (msb .l r) (r == 0))) s

/-- MULS (R264). -/
def execMuls (ea : Ea) (n : Fin 8) (s : State) : Host.Outcome State Fault Refusal :=
  run (do
    let v ← readEa .w ea
    let r := mulSigned v ((← get).dreg n)
    modify (fun s => s.setD n r)
    putFlags (ccrMulDiv (msb .l r) (r == 0))) s

/-- Flags after a division overflow (R243, U1): V set, C cleared, N and Z free, X unchanged. -/
def ccrDivOverflow (free : Half) (old : Ccr) : Ccr :=
  { x := old.x, n := free.getLsbD 0, z := free.getLsbD 1, v := true, c := false }

/-- DIVU (R265): a zero divisor raises DivideByZero (vector 5) with Dn and the flags unchanged. -/
def execDivu (ea : Ea) (n : Fin 8) (s : State) : Host.Outcome State Fault Refusal :=
  run (do
    let v ← readEa .w ea
    let d := ((← get).dreg n).toNat
    let q := d / v.toNat
    let m := d - q * v.toNat
    if v = 0 then raise 5
    else if 0xFFFF < q then do
      let free ← drawFree
      putFlags (ccrDivOverflow free)
    else do
      modify (fun s => s.setD n (BitVec.ofNat 16 m ++ BitVec.ofNat 16 q))
      putFlags (ccrMulDiv ((BitVec.ofNat 16 q).getLsbD 15) (decide (q = 0)))) s

/-- DIVS (R266): rounding toward zero; the remainder has the dividend's sign. -/
def execDivs (ea : Ea) (n : Fin 8) (s : State) : Host.Outcome State Fault Refusal :=
  run (do
    let v ← readEa .w ea
    let d := ((← get).dreg n).toInt
    let q := d.tdiv (signedWord v)
    let m := d - q * signedWord v
    if v = 0 then raise 5
    else if q < -32768 ∨ 32767 < q then do
      let free ← drawFree
      putFlags (ccrDivOverflow free)
    else do
      modify (fun s => s.setD n (BitVec.ofInt 16 m ++ BitVec.ofInt 16 q))
      putFlags (ccrMulDiv (decide (q < 0)) (decide (q = 0)))) s

end Sys2Proof.Machine
end

