-- ==== Sys2Proof/Machine/BitBcd.lean ====
section
/-! DEFINITION. Bit instructions, TAS, Scc and the BCD instructions (46_bit_bcd). -/
namespace Sys2Proof.Machine

/-- The bit a bit instruction addresses, as a mask (R330). -/
def bitMask (k : Nat) : Word := 1#32 <<< k

/-- Flags of the bit instructions (R330): Z is the complement of the bit before the operation, the rest unchanged. -/
def ccrBit (d : Word) (k : Nat) (old : Ccr) : Ccr :=
  { x := old.x, n := old.n, z := !d.getLsbD k, v := old.v, c := old.c }

/-- BTST on a bit number (R331): a data register is tested on 32 bits, memory on one byte; nothing is written. -/
def bitTest (b : Nat) (ea : Ea) : M Unit := do
  match ea with
  | .dn n =>
    let d := (← get).dreg n
    putFlags (ccrBit d (b % 32))
  | e =>
    let d ← readEa .b e
    putFlags (ccrBit d (b % 8))

/-- BCHG, BCLR, BSET on a bit number (R332 to R334): `f` is what becomes of the operand given the mask. -/
def bitUpdate (f : Word → Word → Word) (b : Nat) (ea : Ea) : M Unit := do
  match ea with
  | .dn n =>
    let d := (← get).dreg n
    modify (fun s => s.setD n (f d (bitMask (b % 32))))
    putFlags (ccrBit d (b % 32))
  | e =>
    let h ← resolve .b e
    let d ← readH .b h
    writeH .b h (f d (bitMask (b % 8)))
    putFlags (ccrBit d (b % 8))

/-- What BCHG makes of an operand (R332). -/
def bitChange (d m : Word) : Word := d ^^^ m

/-- What BCLR makes of an operand (R333). -/
def bitClear (d m : Word) : Word := d &&& ~~~ m

/-- What BSET makes of an operand (R334). -/
def bitSet (d m : Word) : Word := d ||| m

/-- The static bit number: the low byte of the word after the opcode (R116, R330). -/
def fetchBitNumber : M Nat := do
  let w ← fetchWord
  pure (lowByte w).toNat

/-- BTST, static (R331). -/
def execBtst (ea : Ea) (s : State) : Host.Outcome State Fault Refusal :=
  run (do
    let b ← fetchBitNumber
    bitTest b ea) s

/-- BTST, dynamic (R331). -/
def execBtstDn (n : Fin 8) (ea : Ea) (s : State) : Host.Outcome State Fault Refusal :=
  run (do
    let b := ((← get).dreg n).toNat
    bitTest b ea) s

/-- BCHG, static (R332). -/
def execBchg (ea : Ea) (s : State) : Host.Outcome State Fault Refusal :=
  run (do
    let b ← fetchBitNumber
    bitUpdate bitChange b ea) s

/-- BCHG, dynamic (R332). -/
def execBchgDn (n : Fin 8) (ea : Ea) (s : State) : Host.Outcome State Fault Refusal :=
  run (do
    let b := ((← get).dreg n).toNat
    bitUpdate bitChange b ea) s

/-- BCLR, static (R333). -/
def execBclr (ea : Ea) (s : State) : Host.Outcome State Fault Refusal :=
  run (do
    let b ← fetchBitNumber
    bitUpdate bitClear b ea) s

/-- BCLR, dynamic (R333). -/
def execBclrDn (n : Fin 8) (ea : Ea) (s : State) : Host.Outcome State Fault Refusal :=
  run (do
    let b := ((← get).dreg n).toNat
    bitUpdate bitClear b ea) s

/-- BSET, static (R334). -/
def execBset (ea : Ea) (s : State) : Host.Outcome State Fault Refusal :=
  run (do
    let b ← fetchBitNumber
    bitUpdate bitSet b ea) s

/-- BSET, dynamic (R334). -/
def execBsetDn (n : Fin 8) (ea : Ea) (s : State) : Host.Outcome State Fault Refusal :=
  run (do
    let b := ((← get).dreg n).toNat
    bitUpdate bitSet b ea) s

/-- TAS (R335): flags from the value before the set; the read and the write are one step (R82). -/
def execTas (ea : Ea) (s : State) : Host.Outcome State Fault Refusal :=
  run (do
    let h ← resolve .b ea
    let d ← readH .b h
    writeH .b h (d ||| 0x80)
    putFlags (ccrLogic .b d)) s

/-- Scc (R336): the destination is written and not read (D24); no flags. -/
def execScc (cond : Cond) (ea : Ea) (s : State) : Host.Outcome State Fault Refusal :=
  run (do
    let h ← resolve .b ea
    let f := (← get).ccr
    writeH .b h (if condHolds f cond then 0xFF else 0x00)) s

/-! ### BCD -/

/-- Both nibbles of a byte are decimal digits (R337). -/
def digitsValid (b : Word) : Bool := decide (b.toNat / 16 % 16 ≤ 9) && decide (b.toNat % 16 ≤ 9)

/-- `val(b)` (R337). -/
def bcdVal (b : Word) : Int := 10 * (b.toNat / 16 % 16 : Nat) + (b.toNat % 16 : Nat)

/-- `bcd(t mod 100)` (R337, R338). -/
def bcdOf (t : Int) : Word := BitVec.ofNat 32 ((t % 100).toNat / 10 * 16 + (t % 100).toNat % 10)

/-- The result byte of a BCD instruction (R338 to R340): exact for valid digits, else free (U2). -/
def bcdResult (valid : Bool) (t : Int) (free : Half) : Word :=
  if valid then bcdOf t else (free.extractLsb' 0 8).setWidth 32

/-- Flags of a BCD instruction (R337 to R340): for valid digits C and X are the decimal carry or borrow and Z is
sticky; N and V are free; for invalid digits all are free (U2). -/
def ccrBcd (valid carry : Bool) (r : Word) (free : Half) (old : Ccr) : Ccr :=
  { x := if valid then carry else free.getLsbD 9
    n := free.getLsbD 11
    z := if valid then r == 0 && old.z else free.getLsbD 10
    v := free.getLsbD 12
    c := if valid then carry else free.getLsbD 8 }

/-- The two forms of ABCD and SBCD (R338, R339): `f s d x` is the decimal result before reduction and its carry. -/
def bcdPair (f : Int → Int → Int → Int × Bool) (form : PairForm) (x y : Fin 8) : M Unit := do
  match form with
  | .regs =>
    let s ← getD .b y
    let d ← getD .b x
    let valid := digitsValid s && digitsValid d
    let t := f (bcdVal s) (bcdVal d) (← get).ccr.x.toNat
    let free ← drawFree
    let r := bcdResult valid t.1 free
    putD .b x r
    putFlags (ccrBcd valid t.2 r free)
  | .mem =>
    let s ← readEa .b (.pre y)
    let hd ← resolve .b (.pre x)
    let d ← readH .b hd
    let valid := digitsValid s && digitsValid d
    let t := f (bcdVal s) (bcdVal d) (← get).ccr.x.toNat
    let free ← drawFree
    let r := bcdResult valid t.1 free
    writeH .b hd r
    putFlags (ccrBcd valid t.2 r free)

/-- Decimal sum with extend and its carry (R338). -/
def bcdAdd (s d x : Int) : Int × Bool := (s + d + x, decide (99 < s + d + x))

/-- Decimal difference with extend and its borrow (R339). -/
def bcdSub (s d x : Int) : Int × Bool := (d - s - x, decide (d - s - x < 0))

/-- ABCD (R338). -/
def execAbcd (form : PairForm) (x y : Fin 8) (s : State) : Host.Outcome State Fault Refusal :=
  run (bcdPair bcdAdd form x y) s

/-- SBCD (R339). -/
def execSbcd (form : PairForm) (x y : Fin 8) (s : State) : Host.Outcome State Fault Refusal :=
  run (bcdPair bcdSub form x y) s

/-- NBCD (R340): 0 - operand - X. -/
def execNbcd (ea : Ea) (s : State) : Host.Outcome State Fault Refusal :=
  run (do
    let h ← resolve .b ea
    let d ← readH .b h
    let t := bcdSub (bcdVal d) 0 (← get).ccr.x.toNat
    let free ← drawFree
    let r := bcdResult (digitsValid d) t.1 free
    writeH .b h r
    putFlags (ccrBcd (digitsValid d) t.2 r free)) s

end Sys2Proof.Machine
end

