-- ==== Sys2Proof/Machine/Control.lean ====
section
/-! DEFINITION. Program control instructions (47_program_control). -/
namespace Sys2Proof.Machine

/-- Bcc (R351): the extension word is fetched whether or not the branch is taken; a branch not taken never faults on
its target. -/
def execBcc (cond : Cond) (disp : Byte) (s : State) : Host.Outcome State Fault Refusal :=
  run (do
    let base := (← get).pc
    let d ← fetchBranchDisp disp
    if condHolds (← get).ccr cond then loadPc (base + d)) s

/-- BRA (R352). -/
def execBra (disp : Byte) (s : State) : Host.Outcome State Fault Refusal :=
  run (do
    let base := (← get).pc
    let d ← fetchBranchDisp disp
    loadPc (base + d)) s

/-- BSR (R353): the return address is pushed before the target is checked (D25). -/
def execBsr (disp : Byte) (s : State) : Host.Outcome State Fault Refusal :=
  run (do
    let base := (← get).pc
    let d ← fetchBranchDisp disp
    push .l (← get).pc
    loadPc (base + d)) s

/-- DBcc (R354): the counter is the low word of Dn; it is decremented before a faulting jump. -/
def execDbcc (cond : Cond) (n : Fin 8) (s : State) : Host.Outcome State Fault Refusal :=
  run (do
    let base := (← get).pc
    let d ← fetchWord
    if !condHolds (← get).ccr cond then do
      let c := trunc .w ((← get).dreg n - 1)
      putD .w n c
      if c != 0xFFFF then loadPc (base + sextHalf d)) s

/-- JMP (R355): memory is not read at the effective address. -/
def execJmp (ea : Ea) (s : State) : Host.Outcome State Fault Refusal :=
  run (do
    let a ← eaAddress ea
    loadPc a) s

/-- JSR (R356): the return address is pushed before the target is checked (D25). -/
def execJsr (ea : Ea) (s : State) : Host.Outcome State Fault Refusal :=
  run (do
    let a ← eaAddress ea
    push .l (← get).pc
    loadPc a) s

/-- RTS (R357). -/
def execRts (s : State) : Host.Outcome State Fault Refusal :=
  run (do
    let a ← pop .l
    loadPc a) s

/-- RTR (R358): only the flags come from the popped word. -/
def execRtr (s : State) : Host.Outcome State Fault Refusal :=
  run (do
    let w ← memRead .w ((← get).areg 7)
    let a ← memRead .l ((← get).areg 7 + 2)
    modify (fun s => s.setA 7 (s.areg 7 + 6))
    modify (fun s => s.putCcr (w.setWidth 16))
    loadPc a) s

/-- NOP (R362): pc has already advanced. -/
def execNop (s : State) : Host.Outcome State Fault Refusal := run (pure ()) s

end Sys2Proof.Machine
end

