-- ==== Sys2Proof/Machine/DataMovement.lean ====
section
/-! DEFINITION. Data movement instructions (42_data_movement): MOVE, MOVEA, MOVEQ, MOVEM, MOVEP, LEA, PEA, EXG, SWAP,
LINK, UNLK. -/
namespace Sys2Proof.Machine

/-- MOVE (R211): the source is read completely before the destination is resolved (R159). -/
def execMove (sz : Size) (src dst : Ea) (s : State) : Host.Outcome State Fault Refusal :=
  run (do
    let v ← readEa sz src
    let hd ← resolve sz dst
    writeH sz hd v
    putFlags (ccrLogic sz v)) s

/-- MOVEA (R212): all 32 bits of An are written, a word sign-extended; no flags. -/
def execMovea (sz : Size) (src : Ea) (n : Fin 8) (s : State) : Host.Outcome State Fault Refusal :=
  run (do
    let v ← readEa sz src
    modify (fun s => s.setA n (sext sz v))) s

/-- MOVEQ (R213). -/
def execMoveq (data : Byte) (n : Fin 8) (s : State) : Host.Outcome State Fault Refusal :=
  run (do
    modify (fun s => s.setD n (sextByte data))
    putFlags (ccrLogic .l (sextByte data))) s

/-- Storing registers at ascending addresses (R214). -/
def storeRegs (sz : Size) : List (Fin 16) → Word → M Unit
  | [], _ => pure ()
  | i :: rest, a => do
    memWrite sz a (trunc sz ((← get).xreg i))
    storeRegs sz rest (a + BitVec.ofNat 32 (sizeBytes sz))

/-- Storing registers at descending addresses (R214, predecrement form); answers the last address. -/
def storeRegsDown (sz : Size) : List (Fin 16) → Word → M Word
  | [], a => pure a
  | i :: rest, a => do
    let a' := a - BitVec.ofNat 32 (sizeBytes sz)
    memWrite sz a' (trunc sz ((← get).xreg i))
    storeRegsDown sz rest a'

/-- Loading registers from ascending addresses (R215): words are sign-extended, into data registers too; answers the
address after the last one. -/
def loadRegs (sz : Size) : List (Fin 16) → Word → M Word
  | [], a => pure a
  | i :: rest, a => do
    let v ← memRead sz a
    modify (fun s => s.setX i (sext sz v))
    loadRegs sz rest (a + BitVec.ofNat 32 (sizeBytes sz))

/-- MOVEM, registers to memory (R214): in the predecrement form the mask is reversed, addresses descend, and An is
updated last, so An itself is stored with its initial value. -/
def execMovemToMem (sz : Size) (ea : Ea) (s : State) : Host.Outcome State Fault Refusal :=
  match ea with
  | .pre n =>
    run (do
      let mask ← fetchWord
      let last ← storeRegsDown sz (maskRegsReversed mask) ((← get).areg n)
      modify (fun s => s.setA n last)) s
  | e =>
    run (do
      let mask ← fetchWord
      let a ← eaAddress e
      storeRegs sz (maskRegs mask) a) s

/-- MOVEM, memory to registers (R215): in the postincrement form the final address overrides a value loaded into
An. -/
def execMovemToRegs (sz : Size) (ea : Ea) (s : State) : Host.Outcome State Fault Refusal :=
  match ea with
  | .post n =>
    run (do
      let mask ← fetchWord
      let last ← loadRegs sz (maskRegs mask) ((← get).areg n)
      modify (fun s => s.setA n last)) s
  | e =>
    run (do
      let mask ← fetchWord
      let a ← eaAddress e
      let _ ← loadRegs sz (maskRegs mask) a) s

/-- Byte k of a register from the most significant of the `sizeBytes sz` bytes MOVEP moves (R216). -/
def movepByte (sz : Size) (v : Word) (k : Nat) : Word := (byteOf sz v k).setWidth 32

/-- MOVEP, register to memory (R216): separate byte writes, high byte first, two addresses apart. -/
def movepStore (sz : Size) (x : Fin 8) (a : Word) : M Unit := do
  let v := (← get).dreg x
  memWrite .b a (movepByte sz v 0)
  memWrite .b (a + 2) (movepByte sz v 1)
  if sz = .l then
    memWrite .b (a + 4) (movepByte sz v 2)
    memWrite .b (a + 6) (movepByte sz v 3)

/-- MOVEP, memory to register (R216): the word form leaves the upper half. -/
def movepLoad (sz : Size) (x : Fin 8) (a : Word) : M Unit := do
  let b0 ← memRead .b a
  let b1 ← memRead .b (a + 2)
  if sz = .l then
    let b2 ← memRead .b (a + 4)
    let b3 ← memRead .b (a + 6)
    modify (fun s => s.setD x (longOfBytes (b0.setWidth 8) (b1.setWidth 8) (b2.setWidth 8) (b3.setWidth 8)))
  else
    putD .w x ((halfOfBytes (b0.setWidth 8) (b1.setWidth 8)).setWidth 32)

/-- MOVEP (R216). -/
def execMovep (dir : MovepDir) (sz : Size) (x y : Fin 8) (s : State) : Host.Outcome State Fault Refusal :=
  run (do
    let d ← fetchWord
    let a := (← get).areg y + sextHalf d
    match dir with
    | .regToMem => movepStore sz x a
    | .memToReg => movepLoad sz x a) s

/-- LEA (R217): the address is not masked and memory is not read. -/
def execLea (ea : Ea) (n : Fin 8) (s : State) : Host.Outcome State Fault Refusal :=
  run (do
    let a ← eaAddress ea
    modify (fun s => s.setA n a)) s

/-- PEA (R218): the address is computed before SP is decremented. -/
def execPea (ea : Ea) (s : State) : Host.Outcome State Fault Refusal :=
  run (do
    let a ← eaAddress ea
    push .l a) s

/-- EXG Dx,Dy (R219). -/
def execExgDD (x y : Fin 8) (s : State) : Host.Outcome State Fault Refusal :=
  run (modify (fun s => (s.setD x (s.dreg y)).setD y (s.dreg x))) s

/-- EXG Ax,Ay (R219). -/
def execExgAA (x y : Fin 8) (s : State) : Host.Outcome State Fault Refusal :=
  run (modify (fun s => (s.setA x (s.areg y)).setA y (s.areg x))) s

/-- EXG Dx,Ay (R219). -/
def execExgDA (x y : Fin 8) (s : State) : Host.Outcome State Fault Refusal :=
  run (modify (fun s => (s.setD x (s.areg y)).setA y (s.dreg x))) s

/-- The halves of a long exchanged (R220). -/
def swapHalves (v : Word) : Word := v.extractLsb' 0 16 ++ v.extractLsb' 16 16

/-- SWAP (R220). -/
def execSwap (n : Fin 8) (s : State) : Host.Outcome State Fault Refusal :=
  run (do
    let r := swapHalves ((← get).dreg n)
    modify (fun s => s.setD n r)
    putFlags (ccrLogic .l r)) s

/-- LINK (R221): for A7 the value stored is the decremented SP (D38). -/
def execLink (n : Fin 8) (s : State) : Host.Outcome State Fault Refusal :=
  run (do
    let d ← fetchWord
    modify (fun s => s.setA 7 (s.areg 7 - 4))
    memWrite .l ((← get).areg 7) ((← get).areg n)
    modify (fun s => s.setA n (s.areg 7))
    modify (fun s => s.setA 7 (s.areg 7 + sextHalf d))) s

/-- UNLK (R222): An is written last, so UNLK A7 leaves the popped value (D38). -/
def execUnlk (n : Fin 8) (s : State) : Host.Outcome State Fault Refusal :=
  run (do
    modify (fun s => s.setA 7 (s.areg n))
    let v ← memRead .l ((← get).areg 7)
    modify (fun s => s.setA 7 (s.areg 7 + 4))
    modify (fun s => s.setA n v)) s

end Sys2Proof.Machine
end

