-- ==== Sys2Proof/Machine/Logic.lean ====
section
/-! DEFINITION. Logical instructions (44_logical) and the immediate forms on CCR. -/
namespace Sys2Proof.Machine

/-- `op <ea>,Dn` of the logical group (R290, R291). -/
def logicEaDn (f : Word → Word → Word) (sz : Size) (ea : Ea) (n : Fin 8) : M Unit := do
  let s ← readEa sz ea
  let d ← getD sz n
  let r := f d s
  putD sz n r
  putFlags (ccrLogic sz r)

/-- `op Dn,<ea>` of the logical group (R290, R291). -/
def logicDnEa (f : Word → Word → Word) (sz : Size) (n : Fin 8) (ea : Ea) : M Unit := do
  let h ← resolve sz ea
  let d ← readH sz h
  let s ← getD sz n
  let r := f d s
  writeH sz h r
  putFlags (ccrLogic sz r)

/-- `op #imm,<ea>` of the logical group (R290, R292). -/
def logicImmEa (f : Word → Word → Word) (sz : Size) (ea : Ea) : M Unit := do
  let imm ← fetchImm sz
  let h ← resolve sz ea
  let d ← readH sz h
  let r := f d imm
  writeH sz h r
  putFlags (ccrLogic sz r)

/-- `op #imm8,CCR` (R293, R296, R299): the low byte of the word; not privileged. -/
def logicImmCcr (f : Half → Half → Half) : M Unit := do
  let imm ← fetchWord
  modify (fun s => s.putCcr (f s.getSr imm))

/-- AND <ea>,Dn (R291). -/
def execAndEaDn (sz : Size) (ea : Ea) (n : Fin 8) (s : State) : Host.Outcome State Fault Refusal :=
  run (logicEaDn (· &&& ·) sz ea n) s

/-- AND Dn,<ea> (R291). -/
def execAndDnEa (sz : Size) (n : Fin 8) (ea : Ea) (s : State) : Host.Outcome State Fault Refusal :=
  run (logicDnEa (· &&& ·) sz n ea) s

/-- ANDI (R292). -/
def execAndi (sz : Size) (ea : Ea) (s : State) : Host.Outcome State Fault Refusal :=
  run (logicImmEa (· &&& ·) sz ea) s

/-- ANDI to CCR (R293). -/
def execAndiToCcr (s : State) : Host.Outcome State Fault Refusal := run (logicImmCcr (· &&& ·)) s

/-- OR <ea>,Dn (R294). -/
def execOrEaDn (sz : Size) (ea : Ea) (n : Fin 8) (s : State) : Host.Outcome State Fault Refusal :=
  run (logicEaDn (· ||| ·) sz ea n) s

/-- OR Dn,<ea> (R294). -/
def execOrDnEa (sz : Size) (n : Fin 8) (ea : Ea) (s : State) : Host.Outcome State Fault Refusal :=
  run (logicDnEa (· ||| ·) sz n ea) s

/-- ORI (R295). -/
def execOri (sz : Size) (ea : Ea) (s : State) : Host.Outcome State Fault Refusal :=
  run (logicImmEa (· ||| ·) sz ea) s

/-- ORI to CCR (R296). -/
def execOriToCcr (s : State) : Host.Outcome State Fault Refusal := run (logicImmCcr (· ||| ·)) s

/-- EOR Dn,<ea> (R297). -/
def execEor (sz : Size) (n : Fin 8) (ea : Ea) (s : State) : Host.Outcome State Fault Refusal :=
  run (logicDnEa (· ^^^ ·) sz n ea) s

/-- EORI (R298). -/
def execEori (sz : Size) (ea : Ea) (s : State) : Host.Outcome State Fault Refusal :=
  run (logicImmEa (· ^^^ ·) sz ea) s

/-- EORI to CCR (R299). -/
def execEoriToCcr (s : State) : Host.Outcome State Fault Refusal := run (logicImmCcr (· ^^^ ·)) s

/-- NOT (R300): one's complement. -/
def execNot (sz : Size) (ea : Ea) (s : State) : Host.Outcome State Fault Refusal :=
  run (do
    let h ← resolve sz ea
    let d ← readH sz h
    let r := trunc sz (~~~ d)
    writeH sz h r
    putFlags (ccrLogic sz r)) s

end Sys2Proof.Machine
end

