-- ==== Sys2Proof/Machine/Shift.lean ====
section
/-! DEFINITION. Shift and rotate instructions (45_shift_rotate): each is its count's worth of one-bit steps (R310). -/
namespace Sys2Proof.Machine

/-- What a one-bit step works on: the value, the last bit out, X, and whether the msb has changed (R310, R311). -/
structure ShiftAcc where
  v   : Word
  out : Bool
  x   : Bool
  vf  : Bool
deriving DecidableEq, Repr

/-- A step repeated (R310 (3)). -/
def repeatStep (f : ShiftAcc → ShiftAcc) : Nat → ShiftAcc → ShiftAcc
  | 0, a => a
  | k + 1, a => repeatStep f k (f a)

/-- `(v[m-1:0] ++ low)` (R311). -/
def shlBit (sz : Size) (v : Word) (low : Bool) : Word := trunc sz ((v <<< 1) ||| (BitVec.ofBool low).setWidth 32)

/-- `(high ++ v[m:1])` (R312). -/
def shrBit (sz : Size) (v : Word) (high : Bool) : Word :=
  (v >>> 1) ||| ((BitVec.ofBool high).setWidth 32 <<< (sizeBits sz - 1))

/-- One step of ASL (R311). -/
def aslStep (sz : Size) (a : ShiftAcc) : ShiftAcc :=
  let out := msb sz a.v
  let v := shlBit sz a.v false
  { v := v, out := out, x := a.x, vf := a.vf || (msb sz v != out) }

/-- One step of ASR (R312). -/
def asrStep (sz : Size) (a : ShiftAcc) : ShiftAcc :=
  { v := shrBit sz a.v (msb sz a.v), out := a.v.getLsbD 0, x := a.x, vf := a.vf }

/-- One step of LSL (R313). -/
def lslStep (sz : Size) (a : ShiftAcc) : ShiftAcc :=
  { v := shlBit sz a.v false, out := msb sz a.v, x := a.x, vf := a.vf }

/-- One step of LSR (R314). -/
def lsrStep (sz : Size) (a : ShiftAcc) : ShiftAcc :=
  { v := shrBit sz a.v false, out := a.v.getLsbD 0, x := a.x, vf := a.vf }

/-- One step of ROL (R315). -/
def rolStep (sz : Size) (a : ShiftAcc) : ShiftAcc :=
  { v := shlBit sz a.v (msb sz a.v), out := msb sz a.v, x := a.x, vf := a.vf }

/-- One step of ROR (R316). -/
def rorStep (sz : Size) (a : ShiftAcc) : ShiftAcc :=
  { v := shrBit sz a.v (a.v.getLsbD 0), out := a.v.getLsbD 0, x := a.x, vf := a.vf }

/-- One step of ROXL (R317): X goes in, the bit out becomes X. -/
def roxlStep (sz : Size) (a : ShiftAcc) : ShiftAcc :=
  { v := shlBit sz a.v a.x, out := msb sz a.v, x := msb sz a.v, vf := a.vf }

/-- One step of ROXR (R318). -/
def roxrStep (sz : Size) (a : ShiftAcc) : ShiftAcc :=
  { v := shrBit sz a.v a.x, out := a.v.getLsbD 0, x := a.v.getLsbD 0, vf := a.vf }

/-- Flags of ASL (R311): C and X the last bit out, C cleared and X kept with count 0; V whether the msb changed. -/
def ccrAsl (sz : Size) (cnt : Nat) (a : ShiftAcc) (old : Ccr) : Ccr :=
  { x := if 0 < cnt then a.out else old.x
    n := msb sz a.v
    z := a.v == 0
    v := a.vf
    c := decide (0 < cnt) && a.out }

/-- Flags of ASR, LSL, LSR (R312 to R314): as ASL with V cleared. -/
def ccrShift (sz : Size) (cnt : Nat) (a : ShiftAcc) (old : Ccr) : Ccr :=
  { x := if 0 < cnt then a.out else old.x
    n := msb sz a.v
    z := a.v == 0
    v := false
    c := decide (0 < cnt) && a.out }

/-- Flags of ROL, ROR (R315, R316): X never changed. -/
def ccrRotate (sz : Size) (cnt : Nat) (a : ShiftAcc) (old : Ccr) : Ccr :=
  { x := old.x
    n := msb sz a.v
    z := a.v == 0
    v := false
    c := decide (0 < cnt) && a.out }

/-- Flags of ROXL, ROXR (R317, R318): C is X, also with count 0. -/
def ccrRotateX (sz : Size) (_cnt : Nat) (a : ShiftAcc) (_old : Ccr) : Ccr :=
  { x := a.x
    n := msb sz a.v
    z := a.v == 0
    v := false
    c := a.x }

/-- The repetitions on an operand, X taken from the flags. -/
def shiftBy (step : Size → ShiftAcc → ShiftAcc) (sz : Size) (cnt : Nat) (v : Word) (x : Bool) : ShiftAcc :=
  repeatStep (step sz) cnt { v := v, out := false, x := x, vf := false }

/-- The register form (R310 (1)). -/
def shiftReg (step : Size → ShiftAcc → ShiftAcc) (flags : Size → Nat → ShiftAcc → Ccr → Ccr) (sz : Size)
    (c : ShiftCount) (n : Fin 8) : M Unit := do
  let cnt := shiftCount c (← get)
  let v ← getD sz n
  let a := shiftBy step sz cnt v (← get).ccr.x
  putD sz n a.v
  putFlags (flags sz cnt a)

/-- The memory form (R310 (2)): a word, by one, read-modify-write. -/
def shiftMem (step : Size → ShiftAcc → ShiftAcc) (flags : Size → Nat → ShiftAcc → Ccr → Ccr) (ea : Ea) : M Unit := do
  let h ← resolve .w ea
  let v ← readH .w h
  let a := shiftBy step .w 1 v (← get).ccr.x
  writeH .w h a.v
  putFlags (flags .w 1 a)

/-- ASL, register (R311). -/
def execAslReg (sz : Size) (c : ShiftCount) (n : Fin 8) (s : State) : Host.Outcome State Fault Refusal :=
  run (shiftReg aslStep ccrAsl sz c n) s

/-- ASL, memory (R311). -/
def execAslMem (ea : Ea) (s : State) : Host.Outcome State Fault Refusal := run (shiftMem aslStep ccrAsl ea) s

/-- ASR, register (R312). -/
def execAsrReg (sz : Size) (c : ShiftCount) (n : Fin 8) (s : State) : Host.Outcome State Fault Refusal :=
  run (shiftReg asrStep ccrShift sz c n) s

/-- ASR, memory (R312). -/
def execAsrMem (ea : Ea) (s : State) : Host.Outcome State Fault Refusal := run (shiftMem asrStep ccrShift ea) s

/-- LSL, register (R313). -/
def execLslReg (sz : Size) (c : ShiftCount) (n : Fin 8) (s : State) : Host.Outcome State Fault Refusal :=
  run (shiftReg lslStep ccrShift sz c n) s

/-- LSL, memory (R313). -/
def execLslMem (ea : Ea) (s : State) : Host.Outcome State Fault Refusal := run (shiftMem lslStep ccrShift ea) s

/-- LSR, register (R314). -/
def execLsrReg (sz : Size) (c : ShiftCount) (n : Fin 8) (s : State) : Host.Outcome State Fault Refusal :=
  run (shiftReg lsrStep ccrShift sz c n) s

/-- LSR, memory (R314). -/
def execLsrMem (ea : Ea) (s : State) : Host.Outcome State Fault Refusal := run (shiftMem lsrStep ccrShift ea) s

/-- ROL, register (R315). -/
def execRolReg (sz : Size) (c : ShiftCount) (n : Fin 8) (s : State) : Host.Outcome State Fault Refusal :=
  run (shiftReg rolStep ccrRotate sz c n) s

/-- ROL, memory (R315). -/
def execRolMem (ea : Ea) (s : State) : Host.Outcome State Fault Refusal := run (shiftMem rolStep ccrRotate ea) s

/-- ROR, register (R316). -/
def execRorReg (sz : Size) (c : ShiftCount) (n : Fin 8) (s : State) : Host.Outcome State Fault Refusal :=
  run (shiftReg rorStep ccrRotate sz c n) s

/-- ROR, memory (R316). -/
def execRorMem (ea : Ea) (s : State) : Host.Outcome State Fault Refusal := run (shiftMem rorStep ccrRotate ea) s

/-- ROXL, register (R317). -/
def execRoxlReg (sz : Size) (c : ShiftCount) (n : Fin 8) (s : State) : Host.Outcome State Fault Refusal :=
  run (shiftReg roxlStep ccrRotateX sz c n) s

/-- ROXL, memory (R317). -/
def execRoxlMem (ea : Ea) (s : State) : Host.Outcome State Fault Refusal := run (shiftMem roxlStep ccrRotateX ea) s

/-- ROXR, register (R318). -/
def execRoxrReg (sz : Size) (c : ShiftCount) (n : Fin 8) (s : State) : Host.Outcome State Fault Refusal :=
  run (shiftReg roxrStep ccrRotateX sz c n) s

/-- ROXR, memory (R318). -/
def execRoxrMem (ea : Ea) (s : State) : Host.Outcome State Fault Refusal := run (shiftMem roxrStep ccrRotateX ea) s

end Sys2Proof.Machine
end

