-- ==== Sys2Proof/Machine/System.lean ====
section
/-! DEFINITION. System control and trap instructions (48_system_control). -/
namespace Sys2Proof.Machine

/-- MOVE from SR (R370): not privileged; the destination is written and not read (D24). -/
def execMoveFromSr (ea : Ea) (s : State) : Host.Outcome State Fault Refusal :=
  run (do
    let h ← resolve .w ea
    let sr := (← get).getSr
    writeH .w h (sr.setWidth 32)) s

/-- MOVE to CCR (R371): a word is read, its low byte used. -/
def execMoveToCcr (ea : Ea) (s : State) : Host.Outcome State Fault Refusal :=
  run (do
    let v ← readEa .w ea
    modify (fun s => s.putCcr (v.setWidth 16))) s

/-- MOVE to SR (R372): privileged. -/
def execMoveToSr (ea : Ea) (s : State) : Host.Outcome State Fault Refusal :=
  run (do
    requireSupervisor
    let v ← readEa .w ea
    modify (fun s => s.putSr (v.setWidth 16))) s

/-- `op #imm16,SR` (R373 to R375): privileged; the immediate is fetched after the check (R376). -/
def logicImmSr (f : Half → Half → Half) : M Unit := do
  requireSupervisor
  let imm ← fetchWord
  modify (fun s => s.putSr (f s.getSr imm))

/-- ANDI to SR (R373). -/
def execAndiToSr (s : State) : Host.Outcome State Fault Refusal := run (logicImmSr (· &&& ·)) s

/-- ORI to SR (R374). -/
def execOriToSr (s : State) : Host.Outcome State Fault Refusal := run (logicImmSr (· ||| ·)) s

/-- EORI to SR (R375). -/
def execEoriToSr (s : State) : Host.Outcome State Fault Refusal := run (logicImmSr (· ^^^ ·)) s

/-- MOVE USP,An (R377): privileged. -/
def execMoveFromUsp (n : Fin 8) (s : State) : Host.Outcome State Fault Refusal :=
  run (do
    requireSupervisor
    modify (fun s => s.setA n s.usp)) s

/-- MOVE An,USP (R378): privileged; the only instruction that writes the inactive shadow. -/
def execMoveToUsp (n : Fin 8) (s : State) : Host.Outcome State Fault Refusal :=
  run (do
    requireSupervisor
    modify (fun s => s.setUsp (s.areg n))) s

/-- RESET (R379): privileged; no effect on the core but the advance of pc (D27). -/
def execReset (s : State) : Host.Outcome State Fault Refusal := run requireSupervisor s

/-- STOP (R380): privileged; SR is loaded, then the core halts. -/
def execStop (s : State) : Host.Outcome State Fault Refusal :=
  run (do
    requireSupervisor
    let imm ← fetchWord
    modify (fun s => s.putSr imm)
    modify (fun s => s.setHalted true)) s

/-- RTE (R381): privileged. -/
def execRte (s : State) : Host.Outcome State Fault Refusal :=
  run (do
    requireSupervisor
    returnFromException) s

/-- TRAP #n (R382, R414): vector 32 + n. -/
def execTrap (vec : Fin 16) (s : State) : Host.Outcome State Fault Refusal :=
  run (raise (BitVec.ofNat 8 (32 + vec.val))) s

/-- TRAPV (R383, R407). -/
def execTrapv (s : State) : Host.Outcome State Fault Refusal :=
  run (do
    if (← get).ccr.v then raise 7) s

/-- Flags of CHK (R384, U4): N as given; Z, V, C free; X unchanged. -/
def ccrChk (n : Bool) (free : Half) (old : Ccr) : Ccr :=
  { x := old.x, n := n, z := free.getLsbD 0, v := free.getLsbD 1, c := free.getLsbD 2 }

/-- CHK (R384, R406): out of bounds raises vector 6 with N telling which bound; in bounds N is free too. -/
def execChk (ea : Ea) (n : Fin 8) (s : State) : Host.Outcome State Fault Refusal :=
  run (do
    let v ← readEa .w ea
    let d := signedWord ((← get).dreg n)
    let free ← drawFree
    if d < 0 then do
      putFlags (ccrChk true free)
      raise 6
    else if signedWord v < d then do
      putFlags (ccrChk false free)
      raise 6
    else putFlags (ccrChk (free.getLsbD 3) free)) s

/-- ILLEGAL (R385): pc back to its own address, vector 4. -/
def execIllegal (s : State) : Host.Outcome State Fault Refusal := run (raiseIllegal 4) s

end Sys2Proof.Machine
end

