-- ==== Sys2Proof/Machine/Dispatch.lean ====
section
/-! DEFINITION. The dispatch table as a match: one arm per instruction, each one call of its meaning (R183). The state
given to exec is the one after the opcode fetch: ir holds the opcode word and pc is past it (R26). -/
namespace Sys2Proof.Machine

def exec (i : Instr) (s : State) : Host.Outcome State Fault Refusal :=
  match i with
  | .ori sz ea => Sys2Proof.Machine.execOri sz ea s
  | .oriToCcr => Sys2Proof.Machine.execOriToCcr s
  | .oriToSr => Sys2Proof.Machine.execOriToSr s
  | .andi sz ea => Sys2Proof.Machine.execAndi sz ea s
  | .andiToCcr => Sys2Proof.Machine.execAndiToCcr s
  | .andiToSr => Sys2Proof.Machine.execAndiToSr s
  | .subi sz ea => Sys2Proof.Machine.execSubi sz ea s
  | .addi sz ea => Sys2Proof.Machine.execAddi sz ea s
  | .eori sz ea => Sys2Proof.Machine.execEori sz ea s
  | .eoriToCcr => Sys2Proof.Machine.execEoriToCcr s
  | .eoriToSr => Sys2Proof.Machine.execEoriToSr s
  | .cmpi sz ea => Sys2Proof.Machine.execCmpi sz ea s
  | .btst ea => Sys2Proof.Machine.execBtst ea s
  | .btstDn n ea => Sys2Proof.Machine.execBtstDn n ea s
  | .bchg ea => Sys2Proof.Machine.execBchg ea s
  | .bchgDn n ea => Sys2Proof.Machine.execBchgDn n ea s
  | .bclr ea => Sys2Proof.Machine.execBclr ea s
  | .bclrDn n ea => Sys2Proof.Machine.execBclrDn n ea s
  | .bset ea => Sys2Proof.Machine.execBset ea s
  | .bsetDn n ea => Sys2Proof.Machine.execBsetDn n ea s
  | .movep dir sz x y => Sys2Proof.Machine.execMovep dir sz x y s
  | .move sz src dst => Sys2Proof.Machine.execMove sz src dst s
  | .movea sz src n => Sys2Proof.Machine.execMovea sz src n s
  | .negx sz ea => Sys2Proof.Machine.execNegx sz ea s
  | .moveFromSr ea => Sys2Proof.Machine.execMoveFromSr ea s
  | .chk ea n => Sys2Proof.Machine.execChk ea n s
  | .lea ea n => Sys2Proof.Machine.execLea ea n s
  | .clr sz ea => Sys2Proof.Machine.execClr sz ea s
  | .neg sz ea => Sys2Proof.Machine.execNeg sz ea s
  | .moveToCcr ea => Sys2Proof.Machine.execMoveToCcr ea s
  | .not sz ea => Sys2Proof.Machine.execNot sz ea s
  | .moveToSr ea => Sys2Proof.Machine.execMoveToSr ea s
  | .nbcd ea => Sys2Proof.Machine.execNbcd ea s
  | .swap n => Sys2Proof.Machine.execSwap n s
  | .pea ea => Sys2Proof.Machine.execPea ea s
  | .extW n => Sys2Proof.Machine.execExtW n s
  | .extL n => Sys2Proof.Machine.execExtL n s
  | .movemToMem sz ea => Sys2Proof.Machine.execMovemToMem sz ea s
  | .movemToRegs sz ea => Sys2Proof.Machine.execMovemToRegs sz ea s
  | .tst sz ea => Sys2Proof.Machine.execTst sz ea s
  | .tas ea => Sys2Proof.Machine.execTas ea s
  | .illegal => Sys2Proof.Machine.execIllegal s
  | .trap vec => Sys2Proof.Machine.execTrap vec s
  | .link n => Sys2Proof.Machine.execLink n s
  | .unlk n => Sys2Proof.Machine.execUnlk n s
  | .moveToUsp n => Sys2Proof.Machine.execMoveToUsp n s
  | .moveFromUsp n => Sys2Proof.Machine.execMoveFromUsp n s
  | .reset => Sys2Proof.Machine.execReset s
  | .nop => Sys2Proof.Machine.execNop s
  | .stop => Sys2Proof.Machine.execStop s
  | .rte => Sys2Proof.Machine.execRte s
  | .rts => Sys2Proof.Machine.execRts s
  | .trapv => Sys2Proof.Machine.execTrapv s
  | .rtr => Sys2Proof.Machine.execRtr s
  | .jsr ea => Sys2Proof.Machine.execJsr ea s
  | .jmp ea => Sys2Proof.Machine.execJmp ea s
  | .addq sz q ea => Sys2Proof.Machine.execAddq sz q ea s
  | .subq sz q ea => Sys2Proof.Machine.execSubq sz q ea s
  | .scc cond ea => Sys2Proof.Machine.execScc cond ea s
  | .dbcc cond n => Sys2Proof.Machine.execDbcc cond n s
  | .bra disp => Sys2Proof.Machine.execBra disp s
  | .bsr disp => Sys2Proof.Machine.execBsr disp s
  | .bcc cond disp => Sys2Proof.Machine.execBcc cond disp s
  | .moveq data n => Sys2Proof.Machine.execMoveq data n s
  | .orEaDn sz ea n => Sys2Proof.Machine.execOrEaDn sz ea n s
  | .orDnEa sz n ea => Sys2Proof.Machine.execOrDnEa sz n ea s
  | .divu ea n => Sys2Proof.Machine.execDivu ea n s
  | .divs ea n => Sys2Proof.Machine.execDivs ea n s
  | .sbcd form x y => Sys2Proof.Machine.execSbcd form x y s
  | .subEaDn sz ea n => Sys2Proof.Machine.execSubEaDn sz ea n s
  | .subDnEa sz n ea => Sys2Proof.Machine.execSubDnEa sz n ea s
  | .subaW ea n => Sys2Proof.Machine.execSubaW ea n s
  | .subaL ea n => Sys2Proof.Machine.execSubaL ea n s
  | .subx sz form x y => Sys2Proof.Machine.execSubx sz form x y s
  | .cmp sz ea n => Sys2Proof.Machine.execCmp sz ea n s
  | .cmpaW ea n => Sys2Proof.Machine.execCmpaW ea n s
  | .cmpaL ea n => Sys2Proof.Machine.execCmpaL ea n s
  | .eor sz n ea => Sys2Proof.Machine.execEor sz n ea s
  | .cmpm sz x y => Sys2Proof.Machine.execCmpm sz x y s
  | .andEaDn sz ea n => Sys2Proof.Machine.execAndEaDn sz ea n s
  | .andDnEa sz n ea => Sys2Proof.Machine.execAndDnEa sz n ea s
  | .mulu ea n => Sys2Proof.Machine.execMulu ea n s
  | .muls ea n => Sys2Proof.Machine.execMuls ea n s
  | .abcd form x y => Sys2Proof.Machine.execAbcd form x y s
  | .exgDD x y => Sys2Proof.Machine.execExgDD x y s
  | .exgAA x y => Sys2Proof.Machine.execExgAA x y s
  | .exgDA x y => Sys2Proof.Machine.execExgDA x y s
  | .addEaDn sz ea n => Sys2Proof.Machine.execAddEaDn sz ea n s
  | .addDnEa sz n ea => Sys2Proof.Machine.execAddDnEa sz n ea s
  | .addaW ea n => Sys2Proof.Machine.execAddaW ea n s
  | .addaL ea n => Sys2Proof.Machine.execAddaL ea n s
  | .addx sz form x y => Sys2Proof.Machine.execAddx sz form x y s
  | .asrReg sz c n => Sys2Proof.Machine.execAsrReg sz c n s
  | .asrMem ea => Sys2Proof.Machine.execAsrMem ea s
  | .aslReg sz c n => Sys2Proof.Machine.execAslReg sz c n s
  | .aslMem ea => Sys2Proof.Machine.execAslMem ea s
  | .lsrReg sz c n => Sys2Proof.Machine.execLsrReg sz c n s
  | .lsrMem ea => Sys2Proof.Machine.execLsrMem ea s
  | .lslReg sz c n => Sys2Proof.Machine.execLslReg sz c n s
  | .lslMem ea => Sys2Proof.Machine.execLslMem ea s
  | .roxrReg sz c n => Sys2Proof.Machine.execRoxrReg sz c n s
  | .roxrMem ea => Sys2Proof.Machine.execRoxrMem ea s
  | .roxlReg sz c n => Sys2Proof.Machine.execRoxlReg sz c n s
  | .roxlMem ea => Sys2Proof.Machine.execRoxlMem ea s
  | .rorReg sz c n => Sys2Proof.Machine.execRorReg sz c n s
  | .rorMem ea => Sys2Proof.Machine.execRorMem ea s
  | .rolReg sz c n => Sys2Proof.Machine.execRolReg sz c n s
  | .rolMem ea => Sys2Proof.Machine.execRolMem ea s

end Sys2Proof.Machine
end

