-- ==== Sys2Proof/Machine/Loop.lean ====
section
/-! DEFINITION. One instruction (R183) and the step relation (R184). -/
namespace Sys2Proof.Machine

/-- The vector of an opcode word with no row: 4, or the line A or line F parameter (R404, R119, R387). -/
def illegalVector (c : Config) : DecodeError → BitVec 8
  | .lineA => c.lineAVector
  | .lineF => c.lineFVector
  | _ => 4

/-- Decode and execute (R183), after the opcode fetch: the instruction `ir` holds, or IllegalInstruction with pc back
at the opcode word. -/
def execFetched (s : State) : Host.Outcome State Fault Refusal :=
  match decodeOp s.ir with
  | .ok i => exec i s
  | .error e => run (raiseIllegal (illegalVector s.config e)) s

/-- ExecOne (R183). -/
def execOne (s : State) : Host.Outcome State Fault Refusal :=
  match fetchOpcode s with
  | .ok _ t => execFetched t
  | .error .raised t => .next t
  | .error (.fault r) _ => .fault r
  | .error (.refusal r) _ => .refused r

/-- The transitions of R184, in their order. -/
inductive Transition where
  | deliverException
  | deliverTrace
  | deliverInterrupt
  | idle
  | stuck
  | execOne
deriving DecidableEq, Repr

/-- The first enabled transition (R184). -/
def enabled (s : State) : Transition :=
  if s.pendVec ≠ 0 then .deliverException
  else if s.tracePend then .deliverTrace
  else if s.interruptAccepted then .deliverInterrupt
  else if s.halted then .idle
  else if isOdd s.pc then .stuck
  else .execOne

/-- The effect of a transition (R184): Idle changes nothing, and with an odd pc no step exists (R186). -/
def takeTransition (s : State) : Transition → Host.Outcome State Fault Refusal
  | .deliverException => deliverException s
  | .deliverTrace => deliverTrace s
  | .deliverInterrupt => deliverInterrupt s
  | .idle => .next s
  | .stuck => .fault .stuckOddPc
  | .execOne => execOne s

/-- `Step`: the first enabled transition is taken (R184). -/
def stepOnce (s : State) : Host.Outcome State Fault Refusal := takeTransition s (enabled s)

end Sys2Proof.Machine
end

