-- ==== Sys2Proof/Machine/Step.lean ====
section
/-! DEFINITION. The step of the machine, and an instruction placed where the step fetches its next one. -/
namespace Sys2Proof.Machine

/-- One transition of the step relation (R184). -/
def step (s : State) : Host.Outcome State Fault Refusal := stepOnce s

/-- The state with an instruction, its bits numbered as spec/opcode_table.json numbers them, stored at pc, where the
next opcode is fetched (R182; log 8). -/
def State.withFetchWord (s : State) (nbits w : Nat) : State := placeBytes s s.pc (tableBytes nbits w)

end Sys2Proof.Machine
end

