-- ==== Sys2Proof/Machine/HostOps.lean ====
section
/-! DEFINITION. What the host may do between steps (R195): executeChunk, interrupt raise, halt request, reset, host
reads and writes. None of them is a transition of `step`. -/
namespace Sys2Proof.Machine

/-- A delivery is enabled (transitions 1 to 3 of R184). -/
def deliverable (s : State) : Bool := s.pendVec != 0 || s.tracePend || s.interruptAccepted

/-- `Settle()` (R187), at most `fuel` deliveries; more than that can only be a device mapped over the stack or the
vector table (U9; log 7). -/
def settle : Nat → State → Host.Outcome State Fault Refusal
  | 0, s => if deliverable s then .refused .settleUnbounded else .next s
  | fuel + 1, s =>
    if deliverable s then
      match stepOnce s with
      | .next t => settle fuel t
      | r => r
    else .next s

/-- The deliveries one boundary may take here: exception, trace and interrupt, each followed by an address error of its
own (R187 counts at most four; log 7). -/
def settleFuel : Nat := 6

/-- The inner loop left because of a signal resumes for the remainder: the saved count comes back (R188). -/
def resumeBudget (s : State) : State := if s.budgetSaved = 0 then s else s.setBudget s.budgetSaved 0

/-- The loop of executeChunk (R187); the recursion argument is the number of instructions the call may still begin. -/
def chunkLoop : Nat → State → Host.Outcome State Fault Refusal
  | 0, s => .next (s.setBudget 0 0)
  | k + 1, s =>
    if s.budget = 0 ∨ s.halted ∨ isOdd s.pc then .next (s.setBudget 0 0)
    else
      match execOne (s.setBudget (s.budget - 1) s.budgetSaved) with
      | .next t =>
        match settle settleFuel t with
        | .next u => chunkLoop k (resumeBudget u)
        | r => r
      | r => r

/-- `executeChunk(n)` (R187, R186, R192). -/
def executeChunk (n : Nat) (s : State) : Host.Outcome State Fault Refusal :=
  if isOdd s.pc then .next s
  else
    match settle settleFuel (s.setAttention false) with
    | .next t => if t.halted then .next t else chunkLoop n (t.setBudget n 0)
    | r => r

/-- The interrupt-raise interface (R410): levels 1 to 7; level 0 is no move of the host (U10). -/
def hostRaiseInterrupt (level : BitVec 3) (s : State) : Host.Outcome State Fault Refusal :=
  if level = 0 then .refused .hostMisuse else .next (s.raiseInterrupt level)

/-- The external halt request, realized as the STOP state (R195, D35). -/
def hostHalt (s : State) : State := s.setHalted true

/-- The state changes of `Reset()` before its two memory reads (R460). -/
def resetControl (s : State) : State :=
  ((((((((s.setSup true).setT false).setImask 7).setPendVec 0).setIpl 0).setTracePend false).setHalted
    false).setAttention false).setBudget 0 0

/-- `Reset()` (R460): SSP and A7 from the long at 0, pc from the long at 4, loaded directly. What the rule leaves
unspecified is left as it is (log 1). -/
def resetSequence : M Unit := do
  modify resetControl
  let sp ← memRead .l 0
  modify (fun s => (s.setSsp sp).setA 7 sp)
  let start ← memRead .l 4
  modify (fun s => s.setPc start)

/-- Reset as a host operation (R195, R461). -/
def hostReset (s : State) : Host.Outcome State Fault Refusal := run resetSequence s

/-- A host read (R195): as MemRead, but a misaligned access is the host's error. Answers the value and the state. -/
def hostRead (sz : Size) (addr : Word) (s : State) : Host.Outcome (Word × State) Fault Refusal :=
  if !aligned sz addr then .refused .hostMisuse
  else
    match memRead sz addr s with
    | .ok v t => .next (v, t)
    | .error (.fault r) _ => .fault r
    | .error (.refusal r) _ => .refused r
    | .error .raised _ => .refused .hostMisuse

/-- A host write (R195). -/
def hostWrite (sz : Size) (addr : Word) (v : Word) (s : State) : Host.Outcome State Fault Refusal :=
  if !aligned sz addr then .refused .hostMisuse else run (memWrite sz addr v) s

/-- The end of a run (R197): halted with nothing deliverable. A state with an odd pc is stuck and not final (R186, R197);
one with a model fault is none either, since a fault leaves no state (log 10). -/
def quiescent (s : State) : Bool := s.halted && !deliverable s && !isOdd s.pc

end Sys2Proof.Machine
end

