-- ==== Sys2Proof/Safety.lean ====
section
/-! DEFINITION. The terms statements are made in: when an access, an operand or a push goes through without a fault,
what the state is after it, which registers and which bytes an instruction may change, and the invariant of a run. All
are functions of the state and the operands alone, over the model's own operand functions. -/
namespace Sys2Proof.Machine

/-! ### Accesses that go through -/

/-- Word k of the instruction stream can be fetched (R67): an even address, both bytes in one region, not a device
window. -/
def fetchable (s : State) (k : Nat) : Bool :=
  let a := s.pc + BitVec.ofNat 32 (2 * k)
  !isOdd a && oneRegion s.config (busAddr s.config a) 2 && decide (regionAt s.config (busAddr s.config a) ≠ .window)

/-- The next k words of the instruction stream can be fetched. -/
def wordsReady (s : State) (k : Nat) : Bool := (List.range k).all (fetchable s)

/-- A data read of this size at this address is made (R66, R68): aligned, all bytes in one region. -/
def readable (c : Config) (sz : Size) (a : Word) : Bool := aligned sz a && oneRegion c (busAddr c a) (sizeBytes sz)

/-- A data write is made (R66, R68, R79): as a read, and the guard does not catch it. -/
def writable (c : Config) (sz : Size) (a : Word) : Bool := readable c sz a && guardFree c (busAddr c a)

/-- `Read(h, sz)` goes through (R153). -/
def handleReadable (c : Config) (sz : Size) : Handle → Bool
  | .mem a => readable c sz a
  | _ => true

/-- `Write(h, sz, v)` goes through (R154). -/
def handleWritable (c : Config) (sz : Size) : Handle → Bool
  | .mem a => writable c sz a
  | _ => true

/-- Every byte of the access is in RAM (R75). -/
def inRam (c : Config) (sz : Size) (a : Word) : Bool :=
  oneRegion c (busAddr c a) (sizeBytes sz) && decide (regionAt c (busAddr c a) = .ram)

/-! ### Operands -/

/-- The operand's extension words can be fetched and the operand read. -/
def operandReadable (sz : Size) (e : Ea) (s : State) : Bool :=
  wordsReady s (eaWords e) && handleReadable s.config sz (eaHandle sz e s)

/-- The operand's extension words can be fetched and the operand read and written. -/
def operandWritable (sz : Size) (e : Ea) (s : State) : Bool :=
  wordsReady s (eaWords e) && handleWritable s.config sz (eaHandle sz e s)

/-- The operand's value. -/
def operandValue (sz : Size) (e : Ea) (s : State) : Word := handleValue sz (eaHandle sz e s) (eaAfter sz e s)

/-- The state after the operand has been resolved and read. -/
def afterOperand (sz : Size) (e : Ea) (s : State) : State := handleAfterRead sz (eaHandle sz e s) (eaAfter sz e s)

/-- The state after the operand has been resolved, read and written through the same handle (R155). -/
def afterUpdate (sz : Size) (e : Ea) (v : Word) (s : State) : State :=
  handleAfterWrite sz (eaHandle sz e s) v (afterOperand sz e s)

/-- The state after the operand has been resolved and written, without a read (D24). -/
def afterAssign (sz : Size) (e : Ea) (v : Word) (s : State) : State :=
  handleAfterWrite sz (eaHandle sz e s) v (eaAfter sz e s)

/-- The low part of a data register replaced (R9). -/
def State.setDLow (s : State) (sz : Size) (n : Fin 8) (v : Word) : State := s.setD n (mergeLow sz (s.dreg n) v)

/-! ### The stack -/

/-- The stack pointer after a push of this size. -/
def pushTo (sz : Size) (s : State) : Word := s.areg 7 - BitVec.ofNat 32 (sizeBytes sz)

/-- A push of this size goes through. -/
def pushable (sz : Size) (s : State) : Bool := writable s.config sz (pushTo sz s)

/-- The state after a push (R10). -/
def afterPush (sz : Size) (v : Word) (s : State) : State := (s.setA 7 (pushTo sz s)).afterStore sz (pushTo sz s) v

/-- The supervisor stack pointer a delivery starts from (R420, R421). -/
def frameBase (s : State) : Word := if s.sup then s.areg 7 else s.ssp

/-! ### Signed values -/

/-- The signed value of an operand of size sz (R8). -/
def signedOf (sz : Size) (v : Word) : Int := if msb sz v then (v.toNat : Int) - 2 ^ sizeBits sz else v.toNat

/-! ### Raised exceptions -/

/-- The state after `raise` of a vector (R402). -/
def afterRaise (v : BitVec 8) (s : State) : State := (s.setPendVec v).signal

/-- The state after `raise AddressError` (R402). -/
def afterAddressError (addr : Word) (dir : Dir) (ctx : AccessCtx) (s : State) : State :=
  ((s.setPendVec 3).setBad addr dir s.sup ctx).signal

/-- The state after `SetPC(target)` (R27). -/
def afterSetPc (target : Word) (s : State) : State :=
  if isOdd target then afterAddressError target .read .instruction s else s.setPc target

/-! ### The opcode fetch -/

/-- The trace latch (R182, R188). -/
def State.latchTrace (s : State) : State := if s.t then (s.setTracePend true).signal else s.setTracePend false

/-- The state after the opcode fetch (R182). -/
def afterFetch (s : State) : State := (s.latchTrace.setIr (s.streamWord 0)).setPc (s.pc + 2)

/-! ### MOVEM -/

/-- The state after registers have been stored at ascending addresses (R214). -/
def afterStoreRegs (sz : Size) : List (Fin 16) → Word → State → State
  | [], _, s => s
  | i :: rest, a, s =>
    afterStoreRegs sz rest (a + BitVec.ofNat 32 (sizeBytes sz)) (s.afterStore sz a (trunc sz (s.xreg i)))

/-- The state after registers have been stored at descending addresses (R214). -/
def afterStoreRegsDown (sz : Size) : List (Fin 16) → Word → State → State
  | [], _, s => s
  | i :: rest, a, s =>
    let a' := a - BitVec.ofNat 32 (sizeBytes sz)
    afterStoreRegsDown sz rest a' (s.afterStore sz a' (trunc sz (s.xreg i)))

/-- The state after registers have been loaded from ascending addresses (R215). -/
def afterLoadRegs (sz : Size) : List (Fin 16) → Word → State → State
  | [], _, s => s
  | i :: rest, a, s =>
    afterLoadRegs sz rest (a + BitVec.ofNat 32 (sizeBytes sz))
      ((s.afterLoad sz a).setX i (sext sz (s.loadValue sz a)))

/-- The address of transfer k counted upward from an address. -/
def transferUp (sz : Size) (a : Word) (k : Nat) : Word := a + BitVec.ofNat 32 (sizeBytes sz * k)

/-- The address of transfer k counted downward below an address. -/
def transferDown (sz : Size) (a : Word) (k : Nat) : Word := a - BitVec.ofNat 32 (sizeBytes sz * (k + 1))

/-! ### Bit instructions -/

/-- The state after BTST on bit number b (R331). -/
def afterBitTest (b : Nat) (e : Ea) (s : State) : State :=
  match e with
  | .dn n => s.setCcr (ccrBit (s.dreg n) (b % 32) s.ccr)
  | e => (afterOperand .b e s).setCcr (ccrBit (operandValue .b e s) (b % 8) s.ccr)

/-- The state after BCHG, BCLR or BSET on bit number b (R332 to R334), `f` being what becomes of the operand given the
mask of the bit. -/
def afterBitUpdate (f : Word → Word → Word) (b : Nat) (e : Ea) (s : State) : State :=
  match e with
  | .dn n => (s.setD n (f (s.dreg n) (1#32 <<< (b % 32)))).setCcr (ccrBit (s.dreg n) (b % 32) s.ccr)
  | e =>
    (afterUpdate .b e (f (operandValue .b e s) (1#32 <<< (b % 8))) s).setCcr
      (ccrBit (operandValue .b e s) (b % 8) s.ccr)

/-! ### A chunk without deliveries -/

/-- k instructions run one after the other with nothing to deliver, no stop and no signal in between, each counted off
the budget (R187, R189); none where something of that happens. -/
def quietRun : Nat → State → Option State
  | 0, s => some s
  | k + 1, s =>
    match execOne (s.setBudget (s.budget - 1) s.budgetSaved) with
    | .next t => if deliverable t || t.halted || isOdd t.pc || t.budget != k || t.budgetSaved != 0 then none
                 else quietRun k t
    | _ => none

/-! ### Classes of instructions -/

/-- The privileged instructions (R376, R434). -/
def isPrivileged : Instr → Bool
  | .moveToSr _ | .andiToSr | .oriToSr | .eoriToSr | .moveToUsp _ | .moveFromUsp _ => true
  | .reset | .stop | .rte => true
  | _ => false

/-- The instructions that write T, S and I (R434, R435). -/
def writesSr : Instr → Bool
  | .moveToSr _ | .andiToSr | .oriToSr | .eoriToSr | .stop | .rte => true
  | _ => false

/-- The instructions that write none of X N Z V C (R29). -/
def writesNoFlag : Instr → Bool
  | .movea _ _ _ | .movep _ _ _ _ | .lea _ _ | .pea _ | .link _ | .unlk _ => true
  | .movemToMem _ _ | .movemToRegs _ _ | .exgDD _ _ | .exgAA _ _ | .exgDA _ _ => true
  | .addaW _ _ | .addaL _ _ | .subaW _ _ | .subaL _ _ => true
  | .addq _ _ (.an _) | .subq _ _ (.an _) => true
  | .bcc _ _ | .bra _ | .bsr _ | .dbcc _ _ | .jmp _ | .jsr _ | .rts | .nop | .scc _ _ => true
  | .moveFromSr _ | .moveToUsp _ | .moveFromUsp _ | .reset | .trap _ | .trapv | .illegal => true
  | _ => false

/-- The instructions that write flags but never X (R29, R241, R290, R315, R316, R330). -/
def keepsX : Instr → Bool
  | .move _ _ _ | .moveq _ _ | .swap _ | .extW _ | .extL _ | .clr _ _ | .tst _ _ | .tas _ => true
  | .ori _ _ | .andi _ _ | .eori _ _ | .not _ _ => true
  | .orEaDn _ _ _ | .orDnEa _ _ _ | .andEaDn _ _ _ | .andDnEa _ _ _ | .eor _ _ _ => true
  | .cmp _ _ _ | .cmpaW _ _ | .cmpaL _ _ | .cmpi _ _ | .cmpm _ _ _ => true
  | .mulu _ _ | .muls _ _ | .divu _ _ | .divs _ _ | .chk _ _ => true
  | .rolReg _ _ _ | .rolMem _ | .rorReg _ _ _ | .rorMem _ => true
  | .btst _ | .btstDn _ _ | .bchg _ | .bchgDn _ _ | .bclr _ | .bclrDn _ _ | .bset _ | .bsetDn _ _ => true
  | _ => false

/-- The instructions that write Z alone (R330). -/
def writesZOnly : Instr → Bool
  | .btst _ | .btstDn _ _ | .bchg _ | .bchgDn _ _ | .bclr _ | .bclrDn _ _ | .bset _ | .bsetDn _ _ => true
  | _ => false

/-- The vectors an instruction itself can raise besides AddressError (R401). -/
def raisesVector : Instr → List (BitVec 8)
  | .divu _ _ | .divs _ _ => [5]
  | .chk _ _ => [6]
  | .trapv => [7]
  | .trap v => [BitVec.ofNat 8 (32 + v.val)]
  | .illegal => [4]
  | i => if isPrivileged i then [8] else []

/-- The instructions whose rule leaves a value open, so that they draw a free value: N and Z of a division overflow (U1),
a BCD instruction's N and V and all of its result on invalid digits (U2), the flags of CHK (U4; log 4). -/
def drawsFree : Instr → Bool
  | .divu _ _ | .divs _ _ | .chk _ _ | .abcd _ _ _ | .sbcd _ _ _ | .nbcd _ => true
  | _ => false

/-! ### What an instruction may change -/

/-- The data register an operand form is. -/
def eaD : Ea → List (Fin 8)
  | .dn n => [n]
  | _ => []

/-- The address register an operand form steps (modes 3 and 4). -/
def eaStepped : Ea → List (Fin 8)
  | .post n | .pre n => [n]
  | _ => []

/-- The address register an operand form is. -/
def eaA : Ea → List (Fin 8)
  | .an n => [n]
  | _ => []

/-- The data registers among general registers. -/
def dataRegs (l : List (Fin 16)) : List (Fin 8) := (l.filter (fun i => decide (i.val < 8))).map (fun i => Fin.ofNat 8 i.val)

/-- The address registers among general registers. -/
def addrRegs (l : List (Fin 16)) : List (Fin 8) := (l.filter (fun i => decide (8 ≤ i.val))).map (fun i => Fin.ofNat 8 i.val)

/-- The data registers an instruction may write, from its rule; `s` is the state it runs in (MOVEM reads its mask
from the instruction stream). -/
def writesD (i : Instr) (s : State) : List (Fin 8) :=
  match i with
  | .ori _ e | .andi _ e | .subi _ e | .addi _ e | .eori _ e => eaD e
  | .bchg e | .bchgDn _ e | .bclr e | .bclrDn _ e | .bset e | .bsetDn _ e => eaD e
  | .movep .memToReg _ x _ => [x]
  | .move _ _ dst => eaD dst
  | .negx _ e | .clr _ e | .neg _ e | .not _ e | .nbcd e | .tas e | .moveFromSr e | .scc _ e => eaD e
  | .swap n | .extW n | .extL n | .moveq _ n | .dbcc _ n => [n]
  | .movemToRegs _ _ => dataRegs (maskRegs (s.streamWord 0))
  | .addq _ _ e | .subq _ _ e => eaD e
  | .orEaDn _ _ n | .andEaDn _ _ n | .addEaDn _ _ n | .subEaDn _ _ n => [n]
  | .eor _ _ e => eaD e
  | .divu _ n | .divs _ n | .mulu _ n | .muls _ n => [n]
  | .sbcd .regs x _ | .abcd .regs x _ | .addx _ .regs x _ | .subx _ .regs x _ => [x]
  | .exgDD x y => [x, y]
  | .exgDA x _ => [x]
  | .asrReg _ _ n | .aslReg _ _ n | .lsrReg _ _ n | .lslReg _ _ n => [n]
  | .roxrReg _ _ n | .roxlReg _ _ n | .rorReg _ _ n | .rolReg _ _ n => [n]
  | _ => []

/-- The address registers an instruction may write: its destination, the registers its operand forms step, A7 where it
uses the stack or may change the mode. -/
def writesA (i : Instr) (s : State) : List (Fin 8) :=
  match i with
  | .ori _ e | .andi _ e | .subi _ e | .addi _ e | .eori _ e | .cmpi _ e => eaStepped e
  | .btst e | .btstDn _ e | .bchg e | .bchgDn _ e | .bclr e | .bclrDn _ e | .bset e | .bsetDn _ e => eaStepped e
  | .move _ src dst => eaStepped src ++ eaStepped dst
  | .movea _ src n => eaStepped src ++ [n]
  | .negx _ e | .clr _ e | .neg _ e | .not _ e | .tst _ e | .nbcd e | .tas e | .moveFromSr e => eaStepped e
  | .moveToCcr e | .chk e _ | .scc _ e => eaStepped e
  | .lea _ n => [n]
  | .pea _ | .jsr _ | .bsr _ | .rts | .rtr => [7]
  | .movemToMem _ e => eaStepped e
  | .movemToRegs _ e => eaStepped e ++ addrRegs (maskRegs (s.streamWord 0))
  | .link n | .unlk n => [n, 7]
  | .moveFromUsp n => [n]
  | .moveToSr e => eaStepped e ++ [7]
  | .andiToSr | .oriToSr | .eoriToSr | .stop | .rte => [7]
  | .addq _ _ e | .subq _ _ e => eaStepped e ++ eaA e
  | .orEaDn _ e _ | .andEaDn _ e _ | .addEaDn _ e _ | .subEaDn _ e _ | .cmp _ e _ => eaStepped e
  | .orDnEa _ _ e | .andDnEa _ _ e | .addDnEa _ _ e | .subDnEa _ _ e | .eor _ _ e => eaStepped e
  | .divu e _ | .divs e _ | .mulu e _ | .muls e _ => eaStepped e
  | .addaW e n | .addaL e n | .subaW e n | .subaL e n => eaStepped e ++ [n]
  | .cmpaW e _ | .cmpaL e _ => eaStepped e
  | .cmpm _ x y => [x, y]
  | .sbcd .mem x y | .abcd .mem x y | .addx _ .mem x y | .subx _ .mem x y => [x, y]
  | .exgAA x y => [x, y]
  | .exgDA _ y => [y]
  | .asrMem e | .aslMem e | .lsrMem e | .lslMem e => eaStepped e
  | .roxrMem e | .roxlMem e | .rorMem e | .rolMem e => eaStepped e
  | _ => []

/-- The bus addresses of the bytes of an access. -/
def accessBytes (c : Config) (sz : Size) (a : Word) : List Nat := (List.range (sizeBytes sz)).map (busAddr c a + ·)

/-- The bus addresses a write through a handle stores to. -/
def handleBytes (c : Config) (sz : Size) : Handle → List Nat
  | .mem a => accessBytes c sz a
  | _ => []

/-- The bus addresses MOVEM stores to (R214). -/
def movemBytes (sz : Size) (e : Ea) (s : State) : List Nat :=
  let cnt := (maskRegs (s.streamWord 0)).length
  match e with
  | .pre n => (List.range cnt).flatMap (fun k => accessBytes s.config sz (transferDown sz (s.areg n) k))
  | e =>
    match eaHandle .l e (s.afterWords 1) with
    | .mem a => (List.range cnt).flatMap (fun k => accessBytes s.config sz (transferUp sz a k))
    | _ => []

/-- The bus addresses of the bytes an instruction may store to when it runs in state s; none for a form that stores
nothing. Each address is the one its meaning computes, in the state its meaning computes it in. -/
def storesTo (i : Instr) (s : State) : List Nat :=
  match i with
  | .ori sz e | .andi sz e | .subi sz e | .addi sz e | .eori sz e =>
    handleBytes s.config sz (eaHandle sz e (s.afterWords (immWords sz)))
  | .bchg e | .bclr e | .bset e => handleBytes s.config .b (eaHandle .b e (s.afterWords 1))
  | .bchgDn _ e | .bclrDn _ e | .bsetDn _ e => handleBytes s.config .b (eaHandle .b e s)
  | .movep .regToMem sz _ y =>
    (List.range (sizeBytes sz)).map (fun k =>
      busAddr s.config (s.areg y + sextHalf (s.streamWord 0) + BitVec.ofNat 32 (2 * k)))
  | .move sz src dst => handleBytes s.config sz (eaHandle sz dst (afterOperand sz src s))
  | .negx sz e | .clr sz e | .neg sz e | .not sz e => handleBytes s.config sz (eaHandle sz e s)
  | .nbcd e | .tas e | .scc _ e => handleBytes s.config .b (eaHandle .b e s)
  | .moveFromSr e => handleBytes s.config .w (eaHandle .w e s)
  | .addq sz _ e | .subq sz _ e => handleBytes s.config sz (eaHandle sz e s)
  | .orDnEa sz _ e | .andDnEa sz _ e | .addDnEa sz _ e | .subDnEa sz _ e | .eor sz _ e =>
    handleBytes s.config sz (eaHandle sz e s)
  | .sbcd .mem x y | .abcd .mem x y => handleBytes s.config .b (eaHandle .b (.pre x) (afterOperand .b (.pre y) s))
  | .addx sz .mem x y | .subx sz .mem x y =>
    handleBytes s.config sz (eaHandle sz (.pre x) (afterOperand sz (.pre y) s))
  | .asrMem e | .aslMem e | .lsrMem e | .lslMem e => handleBytes s.config .w (eaHandle .w e s)
  | .roxrMem e | .roxlMem e | .rorMem e | .rolMem e => handleBytes s.config .w (eaHandle .w e s)
  | .pea _ | .jsr _ | .bsr _ | .link _ => accessBytes s.config .l (pushTo .l s)
  | .movemToMem sz e => movemBytes sz e s
  | _ => []

/-! ### The invariant of a run -/

/-- RAM is in its canonical form and lists RAM addresses only (R75), and pc is even (R27). -/
def Inv (s : State) : Prop :=
  Memory.wf s.mem ∧ (∀ c ∈ s.mem, regionAt s.config c.1 = .ram) ∧ isOdd s.pc = false

/-- The vectors that can be pending: none, or one the core raises (R34, R401). -/
def pendable (c : Config) : List (BitVec 8) :=
  [0, 3, 4, 5, 6, 7, 8, c.lineAVector, c.lineFVector] ++ (List.range 16).map (fun k => BitVec.ofNat 8 (32 + k))

end Sys2Proof.Machine
end

