-- ==== Sys2Proof/Certificates/Slice0/Obligations.lean ====
section
/-! DEFINITION. The statements about the model, each a Prop for the provers. They are stated over every state, every
operand form and every value of the parameters, unless a hypothesis says otherwise; each hypothesis is on the state and
the operands alone. `exec` runs in the state after the opcode fetch: pc is past the opcode word (R26). -/

open Sys2Proof Sys2Proof.Machine

/-! ### Encoding -/

/-- Decoding the encoding of a well-formed instruction gives it back, with every field at every value (R117). -/
def Obligations.DecodeEncode : Prop :=
  ∀ (i : Instr) (rest : List Byte), i.wf = true → decode (encode i ++ rest) = .ok (i, rest)

/-- A word that decodes is the word of the instruction it decodes to, and that instruction is well-formed: no two words
mean one instruction, no reserved word is an instruction (R117, R118, R120). -/
def Obligations.DecodeSound : Prop :=
  ∀ (w : Half) (i : Instr), decodeOp w = .ok i → i.wf = true ∧ encodeOp i = w

/-- A few words written out from R117 and the examples of the instruction rules, and the two reserved lines (R119). -/
def Obligations.DecodeWords : Prop :=
  decodeOp 0x32D8#16 = .ok (.move .w (.post 0) (.post 1)) ∧
  decodeOp 0x0640#16 = .ok (.addi .w (.dn 0)) ∧
  decodeOp 0x0108#16 = .ok (.movep .memToReg .w 0 0) ∧
  decodeOp 0x48E7#16 = .ok (.movemToMem .l (.pre 7)) ∧
  decodeOp 0x5048#16 = .ok (.addq .w 0 (.an 0)) ∧
  decodeOp 0x57C8#16 = .ok (.dbcc .eq 0) ∧
  decodeOp 0x6700#16 = .ok (.bcc .eq 0) ∧
  decodeOp 0xC189#16 = .ok (.exgDA 0 1) ∧
  decodeOp 0xC308#16 = .ok (.abcd .mem 1 0) ∧
  decodeOp 0xB308#16 = .ok (.cmpm .b 1 0) ∧
  decodeOp 0xE3B8#16 = .ok (.rolReg .l (.reg 1) 0) ∧
  decodeOp 0xE1D0#16 = .ok (.aslMem (.ind 0)) ∧
  decodeOp 0x4E4F#16 = .ok (.trap 15) ∧
  decodeOp 0x303C#16 = .error .unassigned ∧
  decodeOp 0xA000#16 = .error .lineA ∧
  decodeOp 0xFFFF#16 = .error .lineF

/-! ### Reset, the step relation and the host's calls -/

/-- What reset gives (R44, R460): supervisor mode, no trace, mask 7, nothing pending, not halted, SSP and A7 the long at
address 0, pc the long at address 4; the reset of the host does the same from every state whose longs at 0 and 4 are in
RAM, and leaves memory as it is (R461). -/
def Obligations.ResetState : Prop :=
  (State.reset.sup = true ∧ State.reset.t = false ∧ State.reset.imask = 7 ∧
    State.reset.pendVec = 0 ∧ State.reset.ipl = 0 ∧ State.reset.tracePend = false ∧
    State.reset.budget = 0 ∧ State.reset.budgetSaved = 0 ∧ State.reset.attention = false ∧ State.reset.halted = false ∧
    State.reset.ssp = Memory.load State.reset.mem .l 0 ∧ State.reset.areg 7 = Memory.load State.reset.mem .l 0 ∧
    State.reset.pc = Memory.load State.reset.mem .l 4) ∧
  (∀ s : State, inRam s.config .l 0 = true → inRam s.config .l 4 = true →
    ∃ t, hostReset s = .next t ∧ t.sup = true ∧ t.t = false ∧ t.imask = 7 ∧ t.pendVec = 0 ∧ t.ipl = 0 ∧
      t.tracePend = false ∧ t.halted = false ∧ t.attention = false ∧ t.budget = 0 ∧ t.budgetSaved = 0 ∧
      t.ssp = Memory.load s.mem .l (busAddr s.config 0) ∧ t.areg 7 = Memory.load s.mem .l (busAddr s.config 0) ∧
      t.pc = Memory.load s.mem .l (busAddr s.config 4) ∧ t.mem = s.mem ∧ t.devLog = s.devLog)

/-- The step takes the first enabled transition (R184), and what each delivery starts from (R412, R417 to R419). That
step answers the fault `stuckOddPc` where R186 says that no step exists is the model's choice (log 10). -/
def Obligations.TransitionOrder : Prop :=
  ∀ s : State,
    (s.pendVec ≠ 0 → step s = deliverAs s.pendVec none (s.setPendVec 0)) ∧
    (s.pendVec = 0 → s.tracePend = true → step s = deliverAs 9 none (s.setTracePend false)) ∧
    (s.pendVec = 0 → s.tracePend = false → s.ipl ≠ 0 → (s.ipl = 7 ∨ s.imask.toNat < s.ipl.toNat) →
      step s = deliverAs (s.config.autovectorBase + s.ipl.setWidth 8) (some s.ipl) (s.setIpl 0)) ∧
    (s.pendVec = 0 → s.tracePend = false → (s.ipl = 0 ∨ (s.ipl ≠ 7 ∧ s.ipl.toNat ≤ s.imask.toNat)) →
      (s.halted = true → step s = .next s) ∧
      (s.halted = false → isOdd s.pc = true → step s = .fault .stuckOddPc) ∧
      (s.halted = false → isOdd s.pc = false → step s = execOne s))

/-- Where the step executes and the opcode can be fetched, it runs exactly the decoded instruction, in the state after
the opcode fetch (R182, R183). -/
def Obligations.StepRunsDecoded : Prop :=
  ∀ (s : State) (i : Instr), enabled s = .execOne → fetchable s 0 = true → decodeOp (s.streamWord 0) = .ok i →
    step s = exec i (afterFetch s) ∧ (afterFetch s).pc = s.pc + 2 ∧ (afterFetch s).ir = s.streamWord 0 ∧
    (afterFetch s).tracePend = s.t

/-- A word with no row raises IllegalInstruction (R386, R387): pc is back at the opcode word, no other register and no
memory changes, no extension word is fetched, and the vector is 4, or the parameter of line A or line F, which is 4 by
default. -/
def Obligations.StepIllegalWord : Prop :=
  (∀ (s : State) (e : DecodeError), enabled s = .execOne → fetchable s 0 = true → decodeOp (s.streamWord 0) = .error e →
    ∃ t, step s = .next t ∧ t.pc = s.pc ∧ t.mem = s.mem ∧ t.devLog = s.devLog ∧ t.d = s.d ∧ t.a = s.a ∧ t.usp = s.usp ∧
      t.ssp = s.ssp ∧ t.getSr = s.getSr ∧
      t.pendVec = (if (s.streamWord 0).extractLsb' 12 4 = 0xA#4 then s.config.lineAVector
        else if (s.streamWord 0).extractLsb' 12 4 = 0xF#4 then s.config.lineFVector else 4)) ∧
  Config.default.lineAVector = 4 ∧ Config.default.lineFVector = 4

/-- The trace latch: after an instruction tracePend is what T was when it began, whatever the instruction did to T
(R413, R182). -/
def Obligations.TraceLatch : Prop :=
  ∀ s t : State, enabled s = .execOne → step s = .next t → t.tracePend = s.t

/-- executeChunk: with an odd pc nothing changes (R186); halted with nothing to deliver it only clears the attention
flag (R187, R192); a chunk of n in which nothing is delivered, stopped or signalled executes exactly n instructions
(R189). A run has ended, in `quiescent`, exactly where the machine idles with an even pc (R197, R186), and then neither
a step nor a chunk changes anything but the attention flag. -/
def Obligations.ChunkCounts : Prop :=
  (∀ (n : Nat) (s : State), isOdd s.pc = true → executeChunk n s = .next s ∧ quiescent s = false) ∧
  (∀ (n : Nat) (s : State), isOdd s.pc = false → s.halted = true → deliverable s = false →
    executeChunk n s = .next (s.setAttention false)) ∧
  (∀ (n : Nat) (s t : State), isOdd s.pc = false → s.halted = false → deliverable s = false →
    quietRun n ((s.setAttention false).setBudget n 0) = some t → executeChunk n s = .next (t.setBudget 0 0)) ∧
  (∀ s : State, quiescent s = true ↔ isOdd s.pc = false ∧ s.halted = true ∧ s.pendVec = 0 ∧ s.tracePend = false ∧
    (s.ipl = 0 ∨ (s.ipl ≠ 7 ∧ s.ipl.toNat ≤ s.imask.toNat))) ∧
  (∀ (n : Nat) (s : State), quiescent s = true →
    step s = .next s ∧ executeChunk n s = .next (s.setAttention false))

/-- The interrupt-raise interface and the halt request of the host (R410, R195): the level is recorded and signalled,
and every other register, the pending state, memory and the device history are as they were. -/
def Obligations.HostSignals : Prop :=
  (∀ (l : BitVec 3) (s : State), l ≠ 0 → ∃ t, hostRaiseInterrupt l s = .next t ∧ t.ipl = l ∧ t.attention = true ∧
    t.pendVec = s.pendVec ∧ t.tracePend = s.tracePend ∧ t.getSr = s.getSr ∧ t.pc = s.pc ∧ t.d = s.d ∧ t.a = s.a ∧
    t.usp = s.usp ∧ t.ssp = s.ssp ∧ t.ir = s.ir ∧
    t.badAddr = s.badAddr ∧ t.badDir = s.badDir ∧ t.badS = s.badS ∧ t.badCtx = s.badCtx ∧
    t.mem = s.mem ∧ t.devLog = s.devLog ∧ t.drawn = s.drawn ∧ t.config = s.config ∧
    t.halted = s.halted ∧ t.budget = 0 ∧
    t.budgetSaved = (if s.budget = 0 then s.budgetSaved else s.budget)) ∧
  (∀ s : State, (hostHalt s).halted = true ∧ hostHalt s = s.setHalted true)

/-! ### Exceptions: taking one and returning from one -/

/-- The privilege check (R376): a privileged instruction in user mode raises PrivilegeViolation with pc back at the
opcode word and no other effect; in supervisor mode, and for every other instruction, that exception is not raised. -/
def Obligations.PrivilegedInUserMode : Prop :=
  (∀ (i : Instr) (s : State), isPrivileged i = true → s.sup = false →
    exec i s = .next (afterRaise 8 (s.setPc (s.pc - 2)))) ∧
  (∀ (i : Instr) (s t : State), i.wf = true → (isPrivileged i = false ∨ s.sup = true) → exec i s = .next t →
    t.pendVec = 8 → s.pendVec = 8)

/-- The delivery of any vector but 3 (R420 to R422), stack and vector slot in RAM, an even handler address: supervisor
mode, T cleared, the mask raised for an interrupt only, a six-byte frame with SR below pc, pc from the slot, nothing
else changed. -/
def Obligations.NormalFrame : Prop :=
  ∀ (v : BitVec 8) (l : Option (BitVec 3)) (s : State), v ≠ 3 →
    let sp := frameBase s
    let slot := BitVec.ofNat 32 (4 * v.toNat)
    isOdd sp = false →
    inRam s.config .l (sp - 4) = true → guardFree s.config (busAddr s.config (sp - 4)) = true →
    inRam s.config .w (sp - 6) = true → guardFree s.config (busAddr s.config (sp - 6)) = true →
    inRam s.config .l slot = true →
    let m := Memory.store (Memory.store s.mem .l (busAddr s.config (sp - 4)) s.pc) .w (busAddr s.config (sp - 6))
      (s.getSr.setWidth 32)
    isOdd (Memory.load m .l (busAddr s.config slot)) = false →
    ∃ t, deliverAs v l s = .next t ∧ t.mem = m ∧ t.pc = Memory.load m .l (busAddr s.config slot) ∧
      t.areg 7 = sp - 6 ∧ t.sup = true ∧ t.t = false ∧ t.imask = l.getD s.imask ∧ t.ccr = s.ccr ∧ t.halted = false ∧
      t.usp = (if s.sup then s.usp else s.areg 7) ∧ t.ssp = s.ssp ∧ t.d = s.d ∧ (∀ n, n ≠ 7 → t.areg n = s.areg n) ∧
      t.pendVec = s.pendVec ∧ t.tracePend = s.tracePend ∧ t.ipl = s.ipl ∧ t.ir = s.ir ∧
      t.badAddr = s.badAddr ∧ t.badDir = s.badDir ∧ t.badS = s.badS ∧ t.badCtx = s.badCtx ∧
      t.budget = s.budget ∧ t.budgetSaved = s.budgetSaved ∧ t.attention = s.attention ∧
      t.devLog = s.devLog ∧ t.drawn = s.drawn ∧ t.config = s.config

/-- The delivery of vector 3 (R423): eight bytes more, the opcode word, the faulting address and the status word, bit 4
for a read, bit 2 for supervisor origin, bits 1:0 10 or 01 for the context. -/
def Obligations.AddressErrorFrame : Prop :=
  ∀ (s : State),
    let sp := frameBase s
    let c := s.config
    let ok := fun (sz : Size) (a : Word) => inRam c sz a && guardFree c (busAddr c a)
    isOdd sp = false → ok .l (sp - 4) = true → ok .w (sp - 6) = true → ok .w (sp - 8) = true → ok .l (sp - 12) = true →
    ok .w (sp - 14) = true → inRam c .l 12 = true →
    let status : Word := (if s.badDir = .read then 16 else 0) + (if s.badS then 4 else 0) +
      (if s.badCtx = .instruction then 2 else 1)
    let m1 := Memory.store (Memory.store s.mem .l (busAddr c (sp - 4)) s.pc) .w (busAddr c (sp - 6)) (s.getSr.setWidth 32)
    let m := Memory.store (Memory.store (Memory.store m1 .w (busAddr c (sp - 8)) (s.ir.setWidth 32)) .l
      (busAddr c (sp - 12)) s.badAddr) .w (busAddr c (sp - 14)) status
    isOdd (Memory.load m .l (busAddr c 12)) = false →
    ∃ t, deliverAs 3 none s = .next t ∧ t.mem = m ∧ t.pc = Memory.load m .l (busAddr c 12) ∧ t.areg 7 = sp - 14 ∧
      t.sup = true ∧ t.t = false ∧ t.imask = s.imask ∧ t.ccr = s.ccr ∧ t.d = s.d

/-- Faults inside a delivery (R425, R426): an odd supervisor stack makes an AddressError pending, with the mode already
changed and pc unchanged; an odd handler address does too, after the frame; during the delivery of vector 3 both are
the model fault DoubleFault. -/
def Obligations.FaultInDelivery : Prop :=
  (∀ (v : BitVec 8) (l : Option (BitVec 3)) (s : State), v ≠ 3 → s.config.dataAlignFault = true →
    isOdd (frameBase s) = true →
    ∃ t, deliverAs v l s = .next t ∧ t.pendVec = 3 ∧ t.badAddr = frameBase s - 4 ∧ t.badDir = .write ∧
      t.badCtx = .data ∧ t.badS = true ∧ t.pc = s.pc ∧ t.sup = true ∧ t.t = false ∧ t.mem = s.mem ∧
      t.areg 7 = frameBase s - 4) ∧
  (∀ (l : Option (BitVec 3)) (s : State), s.config.dataAlignFault = true → isOdd (frameBase s) = true →
    deliverAs 3 l s = .fault .doubleFault) ∧
  (∀ (v : BitVec 8) (l : Option (BitVec 3)) (s : State),
    let sp := frameBase s
    let slot := BitVec.ofNat 32 (4 * v.toNat)
    let m := Memory.store (Memory.store s.mem .l (busAddr s.config (sp - 4)) s.pc) .w (busAddr s.config (sp - 6))
      (s.getSr.setWidth 32)
    v ≠ 3 → isOdd sp = false →
    inRam s.config .l (sp - 4) = true → guardFree s.config (busAddr s.config (sp - 4)) = true →
    inRam s.config .w (sp - 6) = true → guardFree s.config (busAddr s.config (sp - 6)) = true →
    inRam s.config .l slot = true → isOdd (Memory.load m .l (busAddr s.config slot)) = true →
    ∃ t, deliverAs v l s = .next t ∧ t.pendVec = 3 ∧ t.badAddr = Memory.load m .l (busAddr s.config slot) ∧
      t.badDir = .read ∧ t.badCtx = .instruction ∧ t.pc = s.pc ∧ t.mem = m ∧ t.areg 7 = sp - 6) ∧
  (∀ (l : Option (BitVec 3)) (s : State),
    let sp := frameBase s
    let c := s.config
    let ok := fun (sz : Size) (a : Word) => inRam c sz a && guardFree c (busAddr c a)
    isOdd sp = false → ok .l (sp - 4) = true → ok .w (sp - 6) = true → ok .w (sp - 8) = true → ok .l (sp - 12) = true →
    ok .w (sp - 14) = true → inRam c .l 12 = true →
    let status : Word := (if s.badDir = .read then 16 else 0) + (if s.badS then 4 else 0) +
      (if s.badCtx = .instruction then 2 else 1)
    let m1 := Memory.store (Memory.store s.mem .l (busAddr c (sp - 4)) s.pc) .w (busAddr c (sp - 6)) (s.getSr.setWidth 32)
    let m := Memory.store (Memory.store (Memory.store m1 .w (busAddr c (sp - 8)) (s.ir.setWidth 32)) .l
      (busAddr c (sp - 12)) s.badAddr) .w (busAddr c (sp - 14)) status
    isOdd (Memory.load m .l (busAddr c 12)) = true → deliverAs 3 l s = .fault .doubleFault)

/-- RTE undoes a delivery (R429, R381): where an exception (not vector 3), a trace or an interrupt is delivered from an
even pc into RAM, RTE run at once in the state delivered gives back pc, the whole status register, every data and
address register and both stack pointers. -/
def Obligations.RteUndoesDelivery : Prop :=
  ∀ (v : BitVec 8) (l : Option (BitVec 3)) (s : State), v ≠ 3 →
    let sp := frameBase s
    let slot := BitVec.ofNat 32 (4 * v.toNat)
    let m := Memory.store (Memory.store s.mem .l (busAddr s.config (sp - 4)) s.pc) .w (busAddr s.config (sp - 6))
      (s.getSr.setWidth 32)
    3 ≤ s.config.addrBits → isOdd s.pc = false → isOdd sp = false →
    inRam s.config .l (sp - 4) = true → guardFree s.config (busAddr s.config (sp - 4)) = true →
    inRam s.config .w (sp - 6) = true → guardFree s.config (busAddr s.config (sp - 6)) = true →
    inRam s.config .l slot = true → isOdd (Memory.load m .l (busAddr s.config slot)) = false →
    ∃ t u, deliverAs v l s = .next t ∧ exec .rte t = .next u ∧ u.pc = s.pc ∧ u.getSr = s.getSr ∧
      (∀ n, u.dreg n = s.dreg n) ∧ (∀ n, u.areg n = s.areg n) ∧
      (s.sup = true → u.usp = s.usp) ∧ (s.sup = false → u.ssp = s.ssp)

/-- What an instruction does to the exception registers (R402, R401, R188): it leaves the pending vector, or raises one
of its own vectors or AddressError; the bad-access registers change only with an AddressError, which records the origin
mode; the budget pair and the attention flag are left or signalled. -/
def Obligations.ExceptionRegisters : Prop :=
  ∀ (i : Instr) (s t : State), i.wf = true → exec i s = .next t →
    (t.pendVec = s.pendVec ∨ t.pendVec = 3 ∨ t.pendVec ∈ raisesVector i) ∧
    (t.pendVec ≠ 3 → t.badAddr = s.badAddr ∧ t.badDir = s.badDir ∧ t.badS = s.badS ∧ t.badCtx = s.badCtx) ∧
    ((t.budget = s.budget ∧ t.budgetSaved = s.budgetSaved ∧ t.attention = s.attention) ∨
      (t.budget = s.signal.budget ∧ t.budgetSaved = s.signal.budgetSaved ∧ t.attention = true))

/-! ### The status register, conditions and flags -/

/-- GetSR, SetSR, SetCCR (R30 to R32): where each field stands in SR; the bits 14, 12, 11, 7, 6, 5 are discarded and
read 0; SetSR writes every field, and where S changes it saves A7 in the shadow of the old mode and loads it from the
shadow of the new one; SetCCR writes the five flags and leaves T, S, I and the stack pointers. -/
def Obligations.StatusRegister : Prop :=
  ∀ (s : State) (v : Half),
    (s.getSr.getLsbD 15 = s.t ∧ s.getSr.getLsbD 13 = s.sup ∧ s.getSr.extractLsb' 8 3 = s.imask ∧
      s.getSr.getLsbD 4 = s.ccr.x ∧ s.getSr.getLsbD 3 = s.ccr.n ∧ s.getSr.getLsbD 2 = s.ccr.z ∧
      s.getSr.getLsbD 1 = s.ccr.v ∧ s.getSr.getLsbD 0 = s.ccr.c ∧ s.getSr &&& 0x58E0#16 = 0) ∧
    ((s.putSr v).t = v.getLsbD 15 ∧ (s.putSr v).sup = v.getLsbD 13 ∧ (s.putSr v).imask = v.extractLsb' 8 3 ∧
      (s.putSr v).getSr = v &&& 0xA71F#16 ∧
      (s.putSr v).ssp = (if v.getLsbD 13 ≠ s.sup ∧ s.sup = true then s.areg 7 else s.ssp) ∧
      (s.putSr v).usp = (if v.getLsbD 13 ≠ s.sup ∧ s.sup = false then s.areg 7 else s.usp) ∧
      (s.putSr v).areg 7 = (if v.getLsbD 13 = s.sup then s.areg 7 else if s.sup then s.usp else s.ssp)) ∧
    ((s.putCcr v).t = s.t ∧ (s.putCcr v).sup = s.sup ∧ (s.putCcr v).imask = s.imask ∧ (s.putCcr v).a = s.a ∧
      (s.putCcr v).usp = s.usp ∧ (s.putCcr v).ssp = s.ssp ∧
      (s.putCcr v).getSr = (s.getSr &&& 0xA700#16) ||| (v &&& 0x001F#16))

/-- The stack-pointer swap (R31, R24, R436): it happens exactly when S changes, never alters the inactive shadow, and
toggling S there and back restores A7. -/
def Obligations.ModeSwap : Prop :=
  ∀ (s : State) (v w : Half),
    (v.getLsbD 13 = s.sup → (s.putSr v).a = s.a ∧ (s.putSr v).usp = s.usp ∧ (s.putSr v).ssp = s.ssp) ∧
    (s.sup = true → v.getLsbD 13 = false →
      (s.putSr v).ssp = s.areg 7 ∧ (s.putSr v).areg 7 = s.usp ∧ (s.putSr v).usp = s.usp) ∧
    (s.sup = false → v.getLsbD 13 = true →
      (s.putSr v).usp = s.areg 7 ∧ (s.putSr v).areg 7 = s.ssp ∧ (s.putSr v).ssp = s.ssp) ∧
    (∀ n, n ≠ 7 → (s.putSr v).areg n = s.areg n) ∧
    (v.getLsbD 13 ≠ s.sup → w.getLsbD 13 = s.sup → (∀ n, ((s.putSr v).putSr w).areg n = s.areg n))

/-- The sixteen conditions, by their codes (R14). -/
def Obligations.Conditions : Prop :=
  ∀ f : Ccr,
    let holds := fun code => condHolds f (condOfCode code) = true
    holds 0 ∧ ¬ holds 1 ∧
    (holds 2 ↔ f.c = false ∧ f.z = false) ∧ (holds 3 ↔ f.c = true ∨ f.z = true) ∧
    (holds 4 ↔ f.c = false) ∧ (holds 5 ↔ f.c = true) ∧ (holds 6 ↔ f.z = false) ∧ (holds 7 ↔ f.z = true) ∧
    (holds 8 ↔ f.v = false) ∧ (holds 9 ↔ f.v = true) ∧ (holds 10 ↔ f.n = false) ∧ (holds 11 ↔ f.n = true) ∧
    (holds 12 ↔ f.n = f.v) ∧ (holds 13 ↔ f.n ≠ f.v) ∧
    (holds 14 ↔ f.z = false ∧ f.n = f.v) ∧ (holds 15 ↔ f.z = true ∨ f.n ≠ f.v)

/-- Addition and subtraction (R13, R241): the result wraps, C is the unsigned carry or borrow, V says that the signed
result does not fit; operands truncated to the size. Then the flags each group writes, field by field, for a result of
the size (R241, R290): N whether its top bit is set, Z whether it is zero; X as C for additions and subtractions, Z only
ever cleared by the extended ones, X kept by comparisons, V and C cleared by the logical group. -/
def Obligations.AddSubFlags : Prop :=
  (∀ (sz : Size) (a b : Word) (x : Bool), trunc sz a = a → trunc sz b = b →
    (((addF sz a b x).r.toNat : Int) = ((b.toNat : Int) + a.toNat + x.toNat) % 2 ^ sizeBits sz) ∧
    ((addF sz a b x).c = true ↔ 2 ^ sizeBits sz ≤ b.toNat + a.toNat + x.toNat) ∧
    ((addF sz a b x).v = true ↔
      ¬ (-2 ^ (sizeBits sz - 1) ≤ signedOf sz b + signedOf sz a + x.toNat ∧
        signedOf sz b + signedOf sz a + x.toNat < 2 ^ (sizeBits sz - 1))) ∧
    (((subF sz a b x).r.toNat : Int) = ((b.toNat : Int) - a.toNat - x.toNat) % 2 ^ sizeBits sz) ∧
    ((subF sz a b x).c = true ↔ b.toNat < a.toNat + x.toNat) ∧
    ((subF sz a b x).v = true ↔
      ¬ (-2 ^ (sizeBits sz - 1) ≤ signedOf sz b - signedOf sz a - x.toNat ∧
        signedOf sz b - signedOf sz a - x.toNat < 2 ^ (sizeBits sz - 1)))) ∧
  (∀ (sz : Size) (o : AluResult) (old : Ccr), trunc sz o.r = o.r →
    let neg : Prop := 2 ^ (sizeBits sz - 1) ≤ o.r.toNat
    let zero : Prop := o.r.toNat = 0
    ((ccrArith sz o).x = o.c ∧ ((ccrArith sz o).n = true ↔ neg) ∧ ((ccrArith sz o).z = true ↔ zero) ∧
      (ccrArith sz o).v = o.v ∧ (ccrArith sz o).c = o.c) ∧
    ((ccrArithX sz o old).x = o.c ∧ ((ccrArithX sz o old).n = true ↔ neg) ∧
      (zero → (ccrArithX sz o old).z = old.z) ∧ (¬ zero → (ccrArithX sz o old).z = false) ∧
      (ccrArithX sz o old).v = o.v ∧ (ccrArithX sz o old).c = o.c) ∧
    ((ccrCompare sz o old).x = old.x ∧ ((ccrCompare sz o old).n = true ↔ neg) ∧
      ((ccrCompare sz o old).z = true ↔ zero) ∧ (ccrCompare sz o old).v = o.v ∧ (ccrCompare sz o old).c = o.c) ∧
    ((ccrLogic sz o.r old).x = old.x ∧ ((ccrLogic sz o.r old).n = true ↔ neg) ∧
      ((ccrLogic sz o.r old).z = true ↔ zero) ∧ (ccrLogic sz o.r old).v = false ∧ (ccrLogic sz o.r old).c = false))

/-- Multiplication and division as integer arithmetic (R242, R243): products are exact; a quotient that fits and its
remainder satisfy dividend = quotient * divisor + remainder, the remainder is smaller than the divisor and is 0 or has
the sign of the dividend. -/
def Obligations.MulDivArithmetic : Prop :=
  (∀ a b : Word, ((mulUnsigned a b).toNat = (a.toNat % 65536) * (b.toNat % 65536)) ∧
    ((mulSigned a b).toInt = signedWord a * signedWord b)) ∧
  (∀ (n m : Fin 8) (s : State) (hi lo : Half),
    signedWord (s.dreg m) ≠ 0 →
    -32768 ≤ (s.dreg n).toInt.tdiv (signedWord (s.dreg m)) → (s.dreg n).toInt.tdiv (signedWord (s.dreg m)) ≤ 32767 →
    ∃ t, exec (.divs (.dn m) n) s = .next t ∧ (t.dreg n = hi ++ lo →
      (s.dreg n).toInt = lo.toInt * signedWord (s.dreg m) + hi.toInt ∧
      hi.toInt.natAbs < (signedWord (s.dreg m)).natAbs ∧
      (hi.toInt = 0 ∨ (0 < hi.toInt ↔ 0 < (s.dreg n).toInt)))) ∧
  (∀ (n m : Fin 8) (s : State) (hi lo : Half),
    (s.dreg m).toNat % 65536 ≠ 0 → (s.dreg n).toNat / ((s.dreg m).toNat % 65536) ≤ 65535 →
    ∃ t, exec (.divu (.dn m) n) s = .next t ∧ (t.dreg n = hi ++ lo →
      (s.dreg n).toNat = lo.toNat * ((s.dreg m).toNat % 65536) + hi.toNat ∧
      hi.toNat < (s.dreg m).toNat % 65536))

/-- Repeated one-bit steps as whole shifts (R311 to R318), operand truncated to the size: the value of LSL, LSR and ASR
by any count; every bit of ROL, ROR, and of ROXL, ROXR with X as the bit above the top one; ROL and ROR undo each other;
a rotation by the width is the identity, one through X by the width plus one. The last bit out, after at least one step,
as a bit of the operand: `up j` is the j-th bit from the top, 0 past the last; ASL's V says that two of the bits that
stood at the top one after the other differ. -/
def Obligations.ShiftValues : Prop :=
  ∀ (sz : Size) (k : Nat) (v : Word) (x : Bool), trunc sz v = v →
    let bits := sizeBits sz
    let up := fun j => decide (j < bits) && v.getLsbD (bits - 1 - j)
    let wide := fun j => if j = bits then x else v.getLsbD j
    ((shiftBy lslStep sz k v x).v.toNat = v.toNat * 2 ^ k % 2 ^ sizeBits sz ∧
      (shiftBy aslStep sz k v x).v = (shiftBy lslStep sz k v x).v ∧
      (shiftBy lsrStep sz k v x).v.toNat = v.toNat / 2 ^ k ∧
      signedOf sz (shiftBy asrStep sz k v x).v = signedOf sz v / 2 ^ k ∧
      (shiftBy rorStep sz k (shiftBy rolStep sz k v x).v x).v = v ∧
      (shiftBy rolStep sz (sizeBits sz) v x).v = v ∧
      (shiftBy roxlStep sz (sizeBits sz + 1) v x).v = v ∧ (shiftBy roxlStep sz (sizeBits sz + 1) v x).x = x ∧
      (shiftBy roxrStep sz (sizeBits sz + 1) v x).v = v ∧ (shiftBy roxrStep sz (sizeBits sz + 1) v x).x = x) ∧
    (∀ i < bits,
      (shiftBy rolStep sz k v x).v.getLsbD i = v.getLsbD ((i + (bits - k % bits)) % bits) ∧
      (shiftBy rorStep sz k v x).v.getLsbD i = v.getLsbD ((i + k) % bits) ∧
      (shiftBy roxlStep sz k v x).v.getLsbD i = wide ((i + (bits + 1 - k % (bits + 1))) % (bits + 1)) ∧
      (shiftBy roxrStep sz k v x).v.getLsbD i = wide ((i + k) % (bits + 1))) ∧
    (shiftBy roxlStep sz k v x).x = wide ((bits + (bits + 1 - k % (bits + 1))) % (bits + 1)) ∧
    (shiftBy roxrStep sz k v x).x = wide ((bits + k) % (bits + 1)) ∧
    (0 < k →
      (shiftBy lslStep sz k v x).out = up (k - 1) ∧ (shiftBy aslStep sz k v x).out = up (k - 1) ∧
      (shiftBy lsrStep sz k v x).out = v.getLsbD (k - 1) ∧
      (shiftBy asrStep sz k v x).out = v.getLsbD (min (k - 1) (bits - 1)) ∧
      (shiftBy rolStep sz k v x).out = (shiftBy rolStep sz k v x).v.getLsbD 0 ∧
      (shiftBy rorStep sz k v x).out = (shiftBy rorStep sz k v x).v.getLsbD (bits - 1)) ∧
    ((shiftBy aslStep sz k v x).vf = true ↔ ∃ j < k, up j ≠ up (j + 1))

/-! ### Memory and operands -/

/-- A write to RAM and a read after it (R64 to R66, R75, R80): the bytes stored are the value's, most significant first;
every other byte is as before; the same read gives the value; the canonical form is kept. -/
def Obligations.StoreThenLoad : Prop :=
  ∀ (sz : Size) (a v : Word) (s : State), writable s.config sz a = true → inRam s.config sz a = true →
    ∃ t, memWrite sz a v s = .ok () t ∧
      (∀ k < sizeBytes sz, Memory.get t.mem (busAddr s.config a + k) = byteOf sz v k) ∧
      (∀ b, (b < busAddr s.config a ∨ busAddr s.config a + sizeBytes sz ≤ b) → Memory.get t.mem b = Memory.get s.mem b) ∧
      memRead sz a t = .ok (trunc sz v) t ∧ (Memory.wf s.mem → Memory.wf t.mem)

/-- The fault rules of accesses (R66 to R70, R74, R79) and of SetPC (R27): an odd word or long access raises
AddressError with its 32-bit address and direction and touches nothing; bytes never do; an odd fetch address or jump
target does in instruction context and leaves pc; a write the guard catches is the model fault; the accesses whose outcome
the specification leaves open (U3, U6, U7, its treatment "refuse") stop by name. -/
def Obligations.AccessFaults : Prop :=
  ∀ (sz : Size) (a v : Word) (s : State),
    let am := busAddr s.config a
    (aligned sz a = false → s.config.dataAlignFault = true →
      memRead sz a s = .error .raised (((s.setPendVec 3).setBad a .read s.sup .data).signal) ∧
      memWrite sz a v s = .error .raised (((s.setPendVec 3).setBad a .write s.sup .data).signal)) ∧
    (aligned sz a = false → s.config.dataAlignFault = false →
      memRead sz a s = .error (.refusal .misalignedData) s ∧ memWrite sz a v s = .error (.refusal .misalignedData) s) ∧
    (∀ t, memRead .b a s ≠ .error .raised t ∧ memWrite .b a v s ≠ .error .raised t) ∧
    (aligned sz a = true → guardFree s.config am = false → memWrite sz a v s = .error (.fault .fatalHostError) s) ∧
    (aligned sz a = true → oneRegion s.config am (sizeBytes sz) = false →
      memRead sz a s = .error (.refusal .regionStraddle) s ∧
      (guardFree s.config am = true → memWrite sz a v s = .error (.refusal .regionStraddle) s)) ∧
    (isOdd a = true → memFetch a s = .error .raised (((s.setPendVec 3).setBad a .read s.sup .instruction).signal) ∧
      loadPc a s = .error .raised (((s.setPendVec 3).setBad a .read s.sup .instruction).signal)) ∧
    (isOdd a = false → loadPc a s = .ok () (s.setPc a)) ∧
    (isOdd a = false → oneRegion s.config am 2 = false → memFetch a s = .error (.refusal .regionStraddle) s) ∧
    (isOdd a = false → oneRegion s.config am 2 = true → regionAt s.config am = .window →
      memFetch a s = .error (.refusal .fetchFromWindow) s)

/-- The address map (R62, R74, R76 to R78): only the masked address matters; the hole, at or above `ramTop` and outside
every window, reads 0 and ignores writes; every access in a window, with a handler or without, is handed to the device
once, at its masked address and width, with the value answered or written, and leaves memory and the core's registers;
a read without a handler answers all ones. The history that such an access joins is the model's form of the device's
state (log 3). -/
def Obligations.AddressMap : Prop :=
  (∀ (sz : Size) (a b v : Word) (s : State), busAddr s.config a = busAddr s.config b → aligned sz a = true →
    aligned sz b = true → memRead sz a s = memRead sz b s ∧ memWrite sz a v s = memWrite sz b v s) ∧
  (∀ (c : Config) (am : Nat), regionAt c am = .hole ↔ inWindows c am = false ∧ c.ramTop ≤ am) ∧
  (∀ (sz : Size) (a v : Word) (s : State), readable s.config sz a = true →
    regionAt s.config (busAddr s.config a) = .hole →
    memRead sz a s = .ok 0 s ∧ (guardFree s.config (busAddr s.config a) = true → memWrite sz a v s = .ok () s)) ∧
  (∀ (sz : Size) (a : Word) (s : State), readable s.config sz a = true →
    regionAt s.config (busAddr s.config a) = .window →
    ∃ w t, memRead sz a s = .ok w t ∧ trunc sz w = w ∧
      (handled s.config (busAddr s.config a) = false → w = BitVec.ofNat 32 (2 ^ sizeBits sz - 1)) ∧
      t.devLog = { dir := .read, addr := busAddr s.config a, size := sz, value := w } :: s.devLog ∧
      t.mem = s.mem ∧ t.d = s.d ∧ t.a = s.a ∧ t.pc = s.pc ∧ t.getSr = s.getSr ∧ t.usp = s.usp ∧ t.ssp = s.ssp ∧
      t.pendVec = s.pendVec) ∧
  (∀ (sz : Size) (a v : Word) (s : State), writable s.config sz a = true →
    regionAt s.config (busAddr s.config a) = .window →
    ∃ t, memWrite sz a v s = .ok () t ∧
      t.devLog = { dir := .write, addr := busAddr s.config a, size := sz, value := trunc sz v } :: s.devLog ∧
      t.mem = s.mem ∧ t.d = s.d ∧ t.a = s.a ∧ t.pc = s.pc ∧ t.getSr = s.getSr ∧ t.usp = s.usp ∧ t.ssp = s.ssp ∧
      t.pendVec = s.pendVec)

/-- What each operand form resolves to and what it does to the registers (R141 to R149, R151), the extension words
being the next words of the stream. -/
def Obligations.OperandForms : Prop :=
  ∀ (sz : Size) (n : Fin 8) (s : State),
    let step : Word := if sz = .b ∧ n = 7 then 2 else BitVec.ofNat 32 (sizeBytes sz)
    resolve sz (.dn n) s = .ok (.data n) s ∧
    resolve sz (.an n) s = .ok (.addr n) s ∧
    resolve sz (.ind n) s = .ok (.mem (s.areg n)) s ∧
    resolve sz (.post n) s = .ok (.mem (s.areg n)) (s.setA n (s.areg n + step)) ∧
    resolve sz (.pre n) s = .ok (.mem (s.areg n - step)) (s.setA n (s.areg n - step)) ∧
    (fetchable s 0 = true →
      resolve sz (.disp n) s = .ok (.mem (s.areg n + (s.wordAt s.pc).signExtend 32)) (s.setPc (s.pc + 2)) ∧
      resolve sz .absW s = .ok (.mem ((s.wordAt s.pc).signExtend 32)) (s.setPc (s.pc + 2)) ∧
      resolve sz (.index n) s =
        .ok (.mem (s.areg n +
          (if (s.wordAt s.pc).getLsbD 11 then s.xreg (Fin.ofNat 16 ((s.wordAt s.pc).toNat / 4096))
            else ((s.xreg (Fin.ofNat 16 ((s.wordAt s.pc).toNat / 4096))).setWidth 16).signExtend 32) +
          ((s.wordAt s.pc).setWidth 8).signExtend 32)) (s.setPc (s.pc + 2))) ∧
    (fetchable s 0 = true → fetchable s 1 = true →
      resolve sz .absL s = .ok (.mem (s.wordAt s.pc ++ s.wordAt (s.pc + 2))) (s.setPc (s.pc + 4)))

/-- Writing back what was read changes no byte, and the register of modes 3 and 4 is stepped once, by the size of the
operand, 2 for a byte through A7 (R161, R73, R155, R144, R145, R151), in RAM or the hole; operands in a device window are
left out. -/
def Obligations.WriteBackIdempotent : Prop :=
  ∀ (sz : Size) (e : Ea) (s : State) (a : Word), operandWritable sz e s = true → eaHandle sz e s = .mem a →
    regionAt s.config (busAddr s.config a) ≠ .window →
    ∃ t u v, resolve sz e s = .ok (.mem a) t ∧ readH sz (.mem a) t = .ok v t ∧ writeH sz (.mem a) v t = .ok () u ∧
      (∀ b, Memory.get u.mem b = Memory.get s.mem b) ∧ (Memory.wf s.mem → u.mem = s.mem) ∧ u.a = t.a ∧ u.d = s.d ∧
      (∀ n, n ∉ eaStepped e → u.areg n = s.areg n) ∧
      (∀ n, let step : Word := if sz = .b ∧ n = 7 then 2 else BitVec.ofNat 32 (sizeBytes sz)
        (e = .post n → a = s.areg n ∧ u.areg n = s.areg n + step) ∧
        (e = .pre n → a = s.areg n - step ∧ u.areg n = s.areg n - step))

/-! ### Results: data movement -/

/-- MOVE (R211). -/
def Obligations.MoveResult : Prop :=
  ∀ (sz : Size) (src dst : Ea) (s : State),
    let u := afterOperand sz src s
    let v := operandValue sz src s
    operandReadable sz src s = true → operandWritable sz dst u = true →
    exec (.move sz src dst) s = .next ((afterAssign sz dst v u).setCcr (ccrLogic sz v s.ccr))

/-- Address-register destinations (R240): MOVEA (R212), ADDA (R245), SUBA (R250); words are sign-extended, all 32 bits
are written, no flag changes, An is read after the operand is resolved. -/
def Obligations.AddressRegisterResult : Prop :=
  ∀ (ea : Ea) (n : Fin 8) (s : State),
    (∀ sz, operandReadable sz ea s = true →
      exec (.movea sz ea n) s = .next ((afterOperand sz ea s).setA n (sext sz (operandValue sz ea s)))) ∧
    (operandReadable .w ea s = true →
      exec (.addaW ea n) s =
        .next ((afterOperand .w ea s).setA n ((afterOperand .w ea s).areg n + sext .w (operandValue .w ea s))) ∧
      exec (.subaW ea n) s =
        .next ((afterOperand .w ea s).setA n ((afterOperand .w ea s).areg n - sext .w (operandValue .w ea s)))) ∧
    (operandReadable .l ea s = true →
      exec (.addaL ea n) s =
        .next ((afterOperand .l ea s).setA n ((afterOperand .l ea s).areg n + operandValue .l ea s)) ∧
      exec (.subaL ea n) s =
        .next ((afterOperand .l ea s).setA n ((afterOperand .l ea s).areg n - operandValue .l ea s)))

/-- The instructions on registers alone: MOVEQ (R213), EXG (R219), SWAP (R220), EXT (R256). `quiet`: no exception is
raised; pc stays past the opcode word, nothing becomes pending, nothing is signalled. -/
def Obligations.RegisterResult : Prop :=
  ∀ (x y : Fin 8) (data : Byte) (s : State),
    let quiet := fun (t : State) => t.pc = s.pc ∧ t.pendVec = s.pendVec ∧ t.attention = s.attention ∧
      t.budget = s.budget ∧ t.budgetSaved = s.budgetSaved
    (∃ t, exec (.moveq data x) s = .next t ∧ (t.dreg x).toInt = data.toInt ∧
      t.ccr = { x := s.ccr.x, n := data.getLsbD 7, z := data == 0, v := false, c := false } ∧ quiet t) ∧
    (∃ t, exec (.exgDD x y) s = .next t ∧ t.dreg x = s.dreg y ∧ t.dreg y = s.dreg x ∧ t.ccr = s.ccr ∧ quiet t) ∧
    (∃ t, exec (.exgAA x y) s = .next t ∧ t.areg x = s.areg y ∧ t.areg y = s.areg x ∧ t.ccr = s.ccr ∧ quiet t) ∧
    (∃ t, exec (.exgDA x y) s = .next t ∧ t.dreg x = s.areg y ∧ t.areg y = s.dreg x ∧ t.ccr = s.ccr ∧ quiet t) ∧
    (∃ t, exec (.swap x) s = .next t ∧
      (t.dreg x).toNat = (s.dreg x).toNat % 65536 * 65536 + (s.dreg x).toNat / 65536 ∧
      t.ccr = { x := s.ccr.x, n := (s.dreg x).getLsbD 15, z := s.dreg x == 0, v := false, c := false } ∧ quiet t) ∧
    (∃ t, exec (.extW x) s = .next t ∧ ((t.dreg x).setWidth 16).toInt = ((s.dreg x).setWidth 8).toInt ∧
      (t.dreg x).toNat / 65536 = (s.dreg x).toNat / 65536 ∧
      t.ccr = { x := s.ccr.x, n := (s.dreg x).getLsbD 7, z := (s.dreg x).setWidth 8 == 0, v := false, c := false } ∧
      quiet t) ∧
    (∃ t, exec (.extL x) s = .next t ∧ (t.dreg x).toInt = ((s.dreg x).setWidth 16).toInt ∧
      t.ccr = { x := s.ccr.x, n := (s.dreg x).getLsbD 15, z := (s.dreg x).setWidth 16 == 0, v := false, c := false } ∧
      quiet t)

/-- LEA (R217), PEA (R218), JMP (R355), JSR (R356): the address is computed first, without an access; the return address
is pushed before the target is checked. -/
def Obligations.AddressFormResult : Prop :=
  ∀ (ea : Ea) (n : Fin 8) (a : Word) (s : State), eaIsCtrl ea = true → wordsReady s (eaWords ea) = true →
    eaHandle .l ea s = .mem a →
    let u := s.afterWords (eaWords ea)
    exec (.lea ea n) s = .next (u.setA n a) ∧
    (pushable .l s = true → exec (.pea ea) s = .next (afterPush .l a u)) ∧
    exec (.jmp ea) s = .next (afterSetPc a u) ∧
    (pushable .l s = true → exec (.jsr ea) s = .next (afterSetPc a (afterPush .l u.pc u)))

/-- LINK (R221) and UNLK (R222), A7 as the register included. -/
def Obligations.LinkResult : Prop :=
  ∀ (n : Fin 8) (s : State),
    (wordsReady s 1 = true → pushable .l s = true →
      let sp := s.areg 7 - 4
      exec (.link n) s =
        .next ((((((s.afterWords 1).setA 7 sp).afterStore .l sp (if n = 7 then sp else s.areg n)).setA n sp)).setA 7
          (sp + (s.streamWord 0).signExtend 32))) ∧
    (readable s.config .l (s.areg n) = true →
      exec (.unlk n) s =
        .next ((((s.setA 7 (s.areg n)).afterLoad .l (s.areg n)).setA 7 (s.areg n + 4)).setA n (s.loadValue .l (s.areg n))))

/-- MOVEM (R214, R215): every form, the mask word first; a stepped register ends past the last transfer. -/
def Obligations.MovemResult : Prop :=
  ∀ (sz : Size) (s : State), wordsReady s 1 = true →
    let u := s.afterWords 1
    let regs := maskRegs (s.streamWord 0)
    let len := BitVec.ofNat 32 (sizeBytes sz * regs.length)
    (∀ (ea : Ea) (a : Word), eaIsCtrl ea = true → wordsReady u (eaWords ea) = true → eaHandle .l ea u = .mem a →
      ((∀ k < regs.length, writable s.config sz (transferUp sz a k) = true) →
        exec (.movemToMem sz ea) s = .next (afterStoreRegs sz regs a (u.afterWords (eaWords ea)))) ∧
      ((∀ k < regs.length, readable s.config sz (transferUp sz a k) = true) →
        exec (.movemToRegs sz ea) s = .next (afterLoadRegs sz regs a (u.afterWords (eaWords ea))))) ∧
    (∀ n : Fin 8,
      ((∀ k < regs.length, writable s.config sz (transferDown sz (s.areg n) k) = true) →
        exec (.movemToMem sz (.pre n)) s =
          .next ((afterStoreRegsDown sz (maskRegsReversed (s.streamWord 0)) (s.areg n) u).setA n (s.areg n - len))) ∧
      ((∀ k < regs.length, readable s.config sz (transferUp sz (s.areg n) k) = true) →
        exec (.movemToRegs sz (.post n)) s =
          .next ((afterLoadRegs sz regs (s.areg n) u).setA n (s.areg n + len))))

/-- MOVEP (R216): separate byte accesses two addresses apart, high byte first; the word load keeps the upper half. -/
def Obligations.MovepResult : Prop :=
  ∀ (x y : Fin 8) (s : State), wordsReady s 1 = true →
    let u := s.afterWords 1
    let a := s.areg y + (s.streamWord 0).signExtend 32
    let v := s.dreg x
    let byte : Nat → Word := fun lo => (v.extractLsb' lo 8).setWidth 32
    let u1 := u.afterLoad .b a
    let u2 := u1.afterLoad .b (a + 2)
    let u3 := u2.afterLoad .b (a + 4)
    let b0 := (u.loadValue .b a).setWidth 8
    let b1 := (u1.loadValue .b (a + 2)).setWidth 8
    let b2 := (u2.loadValue .b (a + 4)).setWidth 8
    let b3 := (u3.loadValue .b (a + 6)).setWidth 8
    (writable s.config .b a = true → writable s.config .b (a + 2) = true →
      exec (.movep .regToMem .w x y) s = .next ((u.afterStore .b a (byte 8)).afterStore .b (a + 2) (byte 0)) ∧
      (writable s.config .b (a + 4) = true → writable s.config .b (a + 6) = true →
        exec (.movep .regToMem .l x y) s =
          .next ((((u.afterStore .b a (byte 24)).afterStore .b (a + 2) (byte 16)).afterStore .b (a + 4)
            (byte 8)).afterStore .b (a + 6) (byte 0)))) ∧
    (readable s.config .b a = true → readable s.config .b (a + 2) = true →
      exec (.movep .memToReg .w x y) s = .next (u2.setD x (v.extractLsb' 16 16 ++ b0 ++ b1)) ∧
      (readable s.config .b (a + 4) = true → readable s.config .b (a + 6) = true →
        exec (.movep .memToReg .l x y) s = .next ((u3.afterLoad .b (a + 6)).setD x (b0 ++ b1 ++ b2 ++ b3))))

/-! ### Results: arithmetic and logic -/

/-- ADD, SUB, AND, OR of an operand to a data register (R244, R249, R291, R294). -/
def Obligations.OperandToRegisterResult : Prop :=
  ∀ (sz : Size) (ea : Ea) (n : Fin 8) (s : State), operandReadable sz ea s = true →
    let u := afterOperand sz ea s
    let v := operandValue sz ea s
    let d := trunc sz (s.dreg n)
    exec (.addEaDn sz ea n) s =
      .next ((u.setDLow sz n (addF sz v d false).r).setCcr (ccrArith sz (addF sz v d false))) ∧
    exec (.subEaDn sz ea n) s =
      .next ((u.setDLow sz n (subF sz v d false).r).setCcr (ccrArith sz (subF sz v d false))) ∧
    exec (.andEaDn sz ea n) s = .next ((u.setDLow sz n (v &&& d)).setCcr (ccrLogic sz (v &&& d) s.ccr)) ∧
    exec (.orEaDn sz ea n) s = .next ((u.setDLow sz n (v ||| d)).setCcr (ccrLogic sz (v ||| d) s.ccr))

/-- ADD, SUB, AND, OR, EOR of a data register to an operand (R244, R249, R291, R294, R297): one read, one write, the
same handle (R155). -/
def Obligations.RegisterToOperandResult : Prop :=
  ∀ (sz : Size) (ea : Ea) (n : Fin 8) (s : State), operandWritable sz ea s = true →
    let d := operandValue sz ea s
    let v := trunc sz (s.dreg n)
    exec (.addDnEa sz n ea) s =
      .next ((afterUpdate sz ea (addF sz v d false).r s).setCcr (ccrArith sz (addF sz v d false))) ∧
    exec (.subDnEa sz n ea) s =
      .next ((afterUpdate sz ea (subF sz v d false).r s).setCcr (ccrArith sz (subF sz v d false))) ∧
    exec (.andDnEa sz n ea) s = .next ((afterUpdate sz ea (d &&& v) s).setCcr (ccrLogic sz (d &&& v) s.ccr)) ∧
    exec (.orDnEa sz n ea) s = .next ((afterUpdate sz ea (d ||| v) s).setCcr (ccrLogic sz (d ||| v) s.ccr)) ∧
    exec (.eor sz n ea) s = .next ((afterUpdate sz ea (d ^^^ v) s).setCcr (ccrLogic sz (d ^^^ v) s.ccr))

/-- ADDI, SUBI, ANDI, ORI, EORI (R246, R251, R292, R295, R298): the immediate comes before the operand's extension
words (R101). -/
def Obligations.ImmediateResult : Prop :=
  ∀ (sz : Size) (ea : Ea) (s : State),
    let u := s.afterWords (immWords sz)
    let v := immValue sz s
    let d := operandValue sz ea u
    wordsReady s (immWords sz) = true → operandWritable sz ea u = true →
    exec (.addi sz ea) s =
      .next ((afterUpdate sz ea (addF sz v d false).r u).setCcr (ccrArith sz (addF sz v d false))) ∧
    exec (.subi sz ea) s =
      .next ((afterUpdate sz ea (subF sz v d false).r u).setCcr (ccrArith sz (subF sz v d false))) ∧
    exec (.andi sz ea) s = .next ((afterUpdate sz ea (d &&& v) u).setCcr (ccrLogic sz (d &&& v) s.ccr)) ∧
    exec (.ori sz ea) s = .next ((afterUpdate sz ea (d ||| v) u).setCcr (ccrLogic sz (d ||| v) s.ccr)) ∧
    exec (.eori sz ea) s = .next ((afterUpdate sz ea (d ^^^ v) u).setCcr (ccrLogic sz (d ^^^ v) s.ccr))

/-- ADDQ and SUBQ (R247, R252): the field 0 means 8; to An all 32 bits and no flags. -/
def Obligations.QuickResult : Prop :=
  ∀ (sz : Size) (q : Fin 8) (ea : Ea) (s : State),
    let v : Word := if q = 0 then 8 else BitVec.ofNat 32 q.val
    let d := operandValue sz ea s
    (∀ n, ea = .an n →
      exec (.addq sz q ea) s = .next (s.setA n (s.areg n + v)) ∧
      exec (.subq sz q ea) s = .next (s.setA n (s.areg n - v))) ∧
    ((∀ n, ea ≠ .an n) → operandWritable sz ea s = true →
      exec (.addq sz q ea) s =
        .next ((afterUpdate sz ea (addF sz v d false).r s).setCcr (ccrArith sz (addF sz v d false))) ∧
      exec (.subq sz q ea) s =
        .next ((afterUpdate sz ea (subF sz v d false).r s).setCcr (ccrArith sz (subF sz v d false))))

/-- ADDX and SUBX (R248, R253): X takes part and Z is sticky; in the memory form Ay is stepped and read before Ax is. -/
def Obligations.ExtendedResult : Prop :=
  ∀ (sz : Size) (x y : Fin 8) (s : State),
    let v := trunc sz (s.dreg y)
    let d := trunc sz (s.dreg x)
    let u := afterOperand sz (.pre y) s
    let vm := operandValue sz (.pre y) s
    let dm := operandValue sz (.pre x) u
    exec (.addx sz .regs x y) s =
      .next ((s.setDLow sz x (addF sz v d s.ccr.x).r).setCcr (ccrArithX sz (addF sz v d s.ccr.x) s.ccr)) ∧
    exec (.subx sz .regs x y) s =
      .next ((s.setDLow sz x (subF sz v d s.ccr.x).r).setCcr (ccrArithX sz (subF sz v d s.ccr.x) s.ccr)) ∧
    (operandReadable sz (.pre y) s = true → operandWritable sz (.pre x) u = true →
      exec (.addx sz .mem x y) s =
        .next ((afterUpdate sz (.pre x) (addF sz vm dm s.ccr.x).r u).setCcr
          (ccrArithX sz (addF sz vm dm s.ccr.x) s.ccr)) ∧
      exec (.subx sz .mem x y) s =
        .next ((afterUpdate sz (.pre x) (subF sz vm dm s.ccr.x).r u).setCcr
          (ccrArithX sz (subF sz vm dm s.ccr.x) s.ccr)))

/-- NEG, NEGX, NOT, CLR (R254, R255, R300, R257); CLR does not read its operand. -/
def Obligations.UnaryResult : Prop :=
  ∀ (sz : Size) (ea : Ea) (s : State), operandWritable sz ea s = true →
    let d := operandValue sz ea s
    exec (.neg sz ea) s =
      .next ((afterUpdate sz ea (subF sz d 0 false).r s).setCcr (ccrArith sz (subF sz d 0 false))) ∧
    exec (.negx sz ea) s =
      .next ((afterUpdate sz ea (subF sz d 0 s.ccr.x).r s).setCcr (ccrArithX sz (subF sz d 0 s.ccr.x) s.ccr)) ∧
    exec (.not sz ea) s =
      .next ((afterUpdate sz ea (trunc sz (~~~ d)) s).setCcr (ccrLogic sz (trunc sz (~~~ d)) s.ccr)) ∧
    exec (.clr sz ea) s =
      .next ((afterAssign sz ea 0 s).setCcr { x := s.ccr.x, n := false, z := true, v := false, c := false })

/-- CMP, CMPA, CMPI, CMPM, TST (R258 to R262): flags alone; nothing is stored. -/
def Obligations.CompareResult : Prop :=
  ∀ (sz : Size) (ea : Ea) (n x y : Fin 8) (s : State),
    (operandReadable sz ea s = true →
      exec (.cmp sz ea n) s = .next ((afterOperand sz ea s).setCcr
        (ccrCompare sz (subF sz (operandValue sz ea s) (trunc sz (s.dreg n)) false) s.ccr)) ∧
      exec (.tst sz ea) s = .next ((afterOperand sz ea s).setCcr (ccrLogic sz (operandValue sz ea s) s.ccr))) ∧
    (operandReadable .w ea s = true →
      exec (.cmpaW ea n) s = .next ((afterOperand .w ea s).setCcr
        (ccrCompare .l (subF .l (sext .w (operandValue .w ea s)) ((afterOperand .w ea s).areg n) false) s.ccr))) ∧
    (operandReadable .l ea s = true →
      exec (.cmpaL ea n) s = .next ((afterOperand .l ea s).setCcr
        (ccrCompare .l (subF .l (operandValue .l ea s) ((afterOperand .l ea s).areg n) false) s.ccr))) ∧
    (wordsReady s (immWords sz) = true → operandReadable sz ea (s.afterWords (immWords sz)) = true →
      exec (.cmpi sz ea) s = .next ((afterOperand sz ea (s.afterWords (immWords sz))).setCcr
        (ccrCompare sz (subF sz (immValue sz s) (operandValue sz ea (s.afterWords (immWords sz))) false) s.ccr))) ∧
    (operandReadable sz (.post y) s = true → operandReadable sz (.post x) (afterOperand sz (.post y) s) = true →
      exec (.cmpm sz x y) s = .next ((afterOperand sz (.post x) (afterOperand sz (.post y) s)).setCcr
        (ccrCompare sz (subF sz (operandValue sz (.post y) s)
          (operandValue sz (.post x) (afterOperand sz (.post y) s)) false) s.ccr)))

/-- MULU, MULS, DIVU, DIVS (R263 to R266): the product, the quotient and remainder, the overflow with its free N and Z
(U1), the zero divisor's exception. -/
def Obligations.MultiplyDivideResult : Prop :=
  ∀ (ea : Ea) (n : Fin 8) (s : State), operandReadable .w ea s = true →
    let u := afterOperand .w ea s
    let v := operandValue .w ea s
    let d := s.dreg n
    (∃ t, exec (.mulu ea n) s = .next t ∧ t = (u.setD n (mulUnsigned v d)).setCcr
      { x := s.ccr.x, n := (mulUnsigned v d).getLsbD 31, z := mulUnsigned v d == 0, v := false, c := false }) ∧
    (∃ t, exec (.muls ea n) s = .next t ∧ t = (u.setD n (mulSigned v d)).setCcr
      { x := s.ccr.x, n := (mulSigned v d).getLsbD 31, z := mulSigned v d == 0, v := false, c := false }) ∧
    (v = 0 → exec (.divu ea n) s = .next (afterRaise 5 u) ∧ exec (.divs ea n) s = .next (afterRaise 5 u)) ∧
    (v ≠ 0 → d.toNat / v.toNat ≤ 0xFFFF →
      exec (.divu ea n) s = .next ((u.setD n (BitVec.ofNat 16 (d.toNat % v.toNat) ++
        BitVec.ofNat 16 (d.toNat / v.toNat))).setCcr
          { x := s.ccr.x, n := decide (0x8000 ≤ d.toNat / v.toNat), z := decide (d.toNat / v.toNat = 0),
            v := false, c := false })) ∧
    (v ≠ 0 → 0xFFFF < d.toNat / v.toNat →
      ∃ fn fz, exec (.divu ea n) s =
        .next ((u.setDrawn (s.drawn + 1)).setCcr { x := s.ccr.x, n := fn, z := fz, v := true, c := false })) ∧
    (v ≠ 0 → -32768 ≤ d.toInt.tdiv (signedWord v) → d.toInt.tdiv (signedWord v) ≤ 32767 →
      exec (.divs ea n) s = .next ((u.setD n (BitVec.ofInt 16 (d.toInt.tmod (signedWord v)) ++
        BitVec.ofInt 16 (d.toInt.tdiv (signedWord v)))).setCcr
          { x := s.ccr.x, n := decide (d.toInt.tdiv (signedWord v) < 0),
            z := decide (d.toInt.tdiv (signedWord v) = 0), v := false, c := false })) ∧
    (v ≠ 0 → (d.toInt.tdiv (signedWord v) < -32768 ∨ 32767 < d.toInt.tdiv (signedWord v)) →
      ∃ fn fz, exec (.divs ea n) s =
        .next ((u.setDrawn (s.drawn + 1)).setCcr { x := s.ccr.x, n := fn, z := fz, v := true, c := false }))

/-! ### Results: shifts, bits, BCD -/

/-- The sixteen shifts and rotates (R310 to R318): in the register form by the count, in the memory form a word by one;
C and X as each rule says, also with count 0. -/
def Obligations.ShiftResult : Prop :=
  ∀ (sz : Size) (c : ShiftCount) (n : Fin 8) (ea : Ea) (s : State),
    let k := match c with | .imm q => if q = 0 then 8 else q.val | .reg m => (s.dreg m).toNat % 64
    let out := fun (f : Size → ShiftAcc → ShiftAcc) => shiftBy f sz k (trunc sz (s.dreg n)) s.ccr.x
    let reg := fun (f : Size → ShiftAcc → ShiftAcc) (x v c : Bool) => Host.Outcome.next (φ := Fault) (ρ := Refusal)
      ((s.setDLow sz n (out f).v).setCcr { x := x, n := msb sz (out f).v, z := (out f).v == 0, v := v, c := c })
    let outm := fun (f : Size → ShiftAcc → ShiftAcc) => shiftBy f .w 1 (operandValue .w ea s) s.ccr.x
    let mem := fun (f : Size → ShiftAcc → ShiftAcc) (x v c : Bool) => Host.Outcome.next (φ := Fault) (ρ := Refusal)
      ((afterUpdate .w ea (outm f).v s).setCcr
        { x := x, n := msb .w (outm f).v, z := (outm f).v == 0, v := v, c := c })
    let x := fun (f : Size → ShiftAcc → ShiftAcc) => if k = 0 then s.ccr.x else (out f).out
    let cf := fun (f : Size → ShiftAcc → ShiftAcc) => if k = 0 then false else (out f).out
    exec (.aslReg sz c n) s = reg aslStep (x aslStep) (out aslStep).vf (cf aslStep) ∧
    exec (.asrReg sz c n) s = reg asrStep (x asrStep) false (cf asrStep) ∧
    exec (.lslReg sz c n) s = reg lslStep (x lslStep) false (cf lslStep) ∧
    exec (.lsrReg sz c n) s = reg lsrStep (x lsrStep) false (cf lsrStep) ∧
    exec (.rolReg sz c n) s = reg rolStep s.ccr.x false (cf rolStep) ∧
    exec (.rorReg sz c n) s = reg rorStep s.ccr.x false (cf rorStep) ∧
    exec (.roxlReg sz c n) s = reg roxlStep (out roxlStep).x false (out roxlStep).x ∧
    exec (.roxrReg sz c n) s = reg roxrStep (out roxrStep).x false (out roxrStep).x ∧
    (operandWritable .w ea s = true →
      exec (.aslMem ea) s = mem aslStep (outm aslStep).out (outm aslStep).vf (outm aslStep).out ∧
      exec (.asrMem ea) s = mem asrStep (outm asrStep).out false (outm asrStep).out ∧
      exec (.lslMem ea) s = mem lslStep (outm lslStep).out false (outm lslStep).out ∧
      exec (.lsrMem ea) s = mem lsrStep (outm lsrStep).out false (outm lsrStep).out ∧
      exec (.rolMem ea) s = mem rolStep s.ccr.x false (outm rolStep).out ∧
      exec (.rorMem ea) s = mem rorStep s.ccr.x false (outm rorStep).out ∧
      exec (.roxlMem ea) s = mem roxlStep (outm roxlStep).x false (outm roxlStep).x ∧
      exec (.roxrMem ea) s = mem roxrStep (outm roxrStep).x false (outm roxrStep).x)

/-- BTST, BCHG, BCLR, BSET, static and dynamic (R330 to R334), TAS (R335) and Scc (R336). The flags of the first four,
field by field: Z is the complement of bit k of the operand before the operation, no other flag changes (R330). -/
def Obligations.BitResult : Prop :=
  ∀ (ea : Ea) (n : Fin 8) (cond : Cond) (s : State),
    let u := s.afterWords 1
    let b := ((s.streamWord 0).setWidth 8).toNat
    let bd := (s.dreg n).toNat
    (∀ (v : Word) (k : Nat) (f : Ccr), ((ccrBit v k f).z = true ↔ v.getLsbD k = false) ∧
      (ccrBit v k f).x = f.x ∧ (ccrBit v k f).n = f.n ∧ (ccrBit v k f).v = f.v ∧ (ccrBit v k f).c = f.c) ∧
    (wordsReady s 1 = true → operandReadable .b ea u = true → exec (.btst ea) s = .next (afterBitTest b ea u)) ∧
    (operandReadable .b ea s = true → exec (.btstDn n ea) s = .next (afterBitTest bd ea s)) ∧
    (wordsReady s 1 = true → operandWritable .b ea u = true →
      exec (.bchg ea) s = .next (afterBitUpdate (fun d m => d ^^^ m) b ea u) ∧
      exec (.bclr ea) s = .next (afterBitUpdate (fun d m => d &&& ~~~ m) b ea u) ∧
      exec (.bset ea) s = .next (afterBitUpdate (fun d m => d ||| m) b ea u)) ∧
    (operandWritable .b ea s = true →
      exec (.bchgDn n ea) s = .next (afterBitUpdate (fun d m => d ^^^ m) bd ea s) ∧
      exec (.bclrDn n ea) s = .next (afterBitUpdate (fun d m => d &&& ~~~ m) bd ea s) ∧
      exec (.bsetDn n ea) s = .next (afterBitUpdate (fun d m => d ||| m) bd ea s) ∧
      exec (.tas ea) s = .next ((afterUpdate .b ea (operandValue .b ea s ||| 0x80) s).setCcr
        (ccrLogic .b (operandValue .b ea s) s.ccr)) ∧
      exec (.scc cond ea) s = .next (afterAssign .b ea (if condHolds s.ccr cond then 0xFF else 0x00) s))

/-- ABCD, SBCD, NBCD (R337 to R340): each answers a next state. With valid digits the result byte r is two valid digits
whose value is the decimal sum or difference modulo 100, C and X are the decimal carry or borrow, Z is cleared where r
is not 0 and unchanged where it is, N and V are free (U2); with an invalid digit the result byte and every flag are
free, and the instruction runs all the same (log 4). -/
def Obligations.BcdResult : Prop :=
  ∀ (x y : Fin 8) (ea : Ea) (s : State),
    let u := afterOperand .b (.pre y) s
    let xin : Int := s.ccr.x.toNat
    let ds := trunc .b (s.dreg y)
    let dd := trunc .b (s.dreg x)
    let ms := operandValue .b (.pre y) s
    let md := operandValue .b (.pre x) u
    let v := operandValue .b ea s
    let digits := fun (r : Byte) (n : Int) =>
      r.toNat / 16 ≤ 9 ∧ r.toNat % 16 ≤ 9 ∧ (10 * (r.toNat / 16 : Nat) + (r.toNat % 16 : Nat) : Int) = n
    let flags := fun (r : Byte) (carry fn fv : Bool) =>
      ({ x := carry, n := fn, z := decide (r = 0) && s.ccr.z, v := fv, c := carry } : Ccr)
    (digitsValid ds = true → digitsValid dd = true →
      (∃ (r : Byte) (fn fv : Bool), digits r ((bcdVal ds + bcdVal dd + xin) % 100) ∧
        exec (.abcd .regs x y) s = .next (((s.setDLow .b x (r.setWidth 32)).setDrawn (s.drawn + 1)).setCcr
          (flags r (decide (99 < bcdVal ds + bcdVal dd + xin)) fn fv))) ∧
      (∃ (r : Byte) (fn fv : Bool), digits r ((bcdVal dd - bcdVal ds - xin) % 100) ∧
        exec (.sbcd .regs x y) s = .next (((s.setDLow .b x (r.setWidth 32)).setDrawn (s.drawn + 1)).setCcr
          (flags r (decide (bcdVal dd - bcdVal ds - xin < 0)) fn fv)))) ∧
    ((digitsValid ds && digitsValid dd) = false →
      (∃ (r : Byte) (f : Ccr),
        exec (.abcd .regs x y) s = .next (((s.setDLow .b x (r.setWidth 32)).setDrawn (s.drawn + 1)).setCcr f)) ∧
      (∃ (r : Byte) (f : Ccr),
        exec (.sbcd .regs x y) s = .next (((s.setDLow .b x (r.setWidth 32)).setDrawn (s.drawn + 1)).setCcr f))) ∧
    (operandReadable .b (.pre y) s = true → operandWritable .b (.pre x) u = true →
      (digitsValid ms = true → digitsValid md = true →
        (∃ (r : Byte) (fn fv : Bool), digits r ((bcdVal ms + bcdVal md + xin) % 100) ∧
          exec (.abcd .mem x y) s = .next (((afterUpdate .b (.pre x) (r.setWidth 32) u).setDrawn (s.drawn + 1)).setCcr
            (flags r (decide (99 < bcdVal ms + bcdVal md + xin)) fn fv))) ∧
        (∃ (r : Byte) (fn fv : Bool), digits r ((bcdVal md - bcdVal ms - xin) % 100) ∧
          exec (.sbcd .mem x y) s = .next (((afterUpdate .b (.pre x) (r.setWidth 32) u).setDrawn (s.drawn + 1)).setCcr
            (flags r (decide (bcdVal md - bcdVal ms - xin < 0)) fn fv)))) ∧
      ((digitsValid ms && digitsValid md) = false →
        (∃ (r : Byte) (f : Ccr), exec (.abcd .mem x y) s =
          .next (((afterUpdate .b (.pre x) (r.setWidth 32) u).setDrawn (s.drawn + 1)).setCcr f)) ∧
        (∃ (r : Byte) (f : Ccr), exec (.sbcd .mem x y) s =
          .next (((afterUpdate .b (.pre x) (r.setWidth 32) u).setDrawn (s.drawn + 1)).setCcr f)))) ∧
    (operandWritable .b ea s = true →
      (digitsValid v = true → ∃ (r : Byte) (fn fv : Bool), digits r ((0 - bcdVal v - xin) % 100) ∧
        exec (.nbcd ea) s = .next (((afterUpdate .b ea (r.setWidth 32) s).setDrawn (s.drawn + 1)).setCcr
          (flags r (decide (0 - bcdVal v - xin < 0)) fn fv))) ∧
      (digitsValid v = false → ∃ (r : Byte) (f : Ccr),
        exec (.nbcd ea) s = .next (((afterUpdate .b ea (r.setWidth 32) s).setDrawn (s.drawn + 1)).setCcr f)))

/-! ### Results: control flow and system control -/

/-- Bcc, BRA, BSR, DBcc, NOP (R350 to R354, R362): the extension word is fetched whether or not the branch is taken; the
base is the address after the opcode word. -/
def Obligations.BranchResult : Prop :=
  ∀ (cond : Cond) (disp : Byte) (n : Fin 8) (s : State),
    let w := if disp = 0 then 1 else 0
    let u := s.afterWords w
    let d : Word := if disp = 0 then (s.streamWord 0).signExtend 32 else disp.signExtend 32
    let cnt := (s.dreg n).toNat % 65536
    let v := (s.afterWords 1).setDLow .w n (s.dreg n - 1)
    (wordsReady s w = true →
      (condHolds s.ccr cond = true → exec (.bcc cond disp) s = .next (afterSetPc (s.pc + d) u)) ∧
      (condHolds s.ccr cond = false → exec (.bcc cond disp) s = .next u) ∧
      exec (.bra disp) s = .next (afterSetPc (s.pc + d) u) ∧
      (pushable .l s = true → exec (.bsr disp) s = .next (afterSetPc (s.pc + d) (afterPush .l u.pc u)))) ∧
    (wordsReady s 1 = true →
      (condHolds s.ccr cond = true → exec (.dbcc cond n) s = .next (s.afterWords 1)) ∧
      (condHolds s.ccr cond = false → cnt = 0 → exec (.dbcc cond n) s = .next v) ∧
      (condHolds s.ccr cond = false → cnt ≠ 0 →
        exec (.dbcc cond n) s = .next (afterSetPc (s.pc + (s.streamWord 0).signExtend 32) v))) ∧
    exec .nop s = .next s

/-- RTS (R357), RTR (R358), RTE in supervisor mode (R381). -/
def Obligations.ReturnResult : Prop :=
  ∀ s : State,
    let sp := s.areg 7
    let u1 := s.afterLoad .w sp
    let sr := (s.loadValue .w sp).setWidth 16
    let a := u1.loadValue .l (sp + 2)
    let u2 := (u1.afterLoad .l (sp + 2)).setA 7 (sp + 6)
    (readable s.config .l sp = true →
      exec .rts s = .next (afterSetPc (s.loadValue .l sp) ((s.afterLoad .l sp).setA 7 (sp + 4)))) ∧
    (readable s.config .w sp = true → readable s.config .l (sp + 2) = true →
      exec .rtr s = .next (afterSetPc a (u2.putCcr sr)) ∧
      (s.sup = true → exec .rte s = .next (afterSetPc a (u2.putSr sr))))

/-- ANDI, ORI, EORI to CCR, MOVE to CCR and MOVE from SR, in either mode (R293, R296, R299, R371, R370). -/
def Obligations.CcrResult : Prop :=
  ∀ (ea : Ea) (s : State),
    (wordsReady s 1 = true →
      exec .andiToCcr s = .next ((s.afterWords 1).putCcr (s.getSr &&& s.streamWord 0)) ∧
      exec .oriToCcr s = .next ((s.afterWords 1).putCcr (s.getSr ||| s.streamWord 0)) ∧
      exec .eoriToCcr s = .next ((s.afterWords 1).putCcr (s.getSr ^^^ s.streamWord 0))) ∧
    (operandReadable .w ea s = true →
      exec (.moveToCcr ea) s = .next ((afterOperand .w ea s).putCcr ((operandValue .w ea s).setWidth 16))) ∧
    (operandWritable .w ea s = true →
      exec (.moveFromSr ea) s = .next (afterAssign .w ea (s.getSr.setWidth 32) s))

/-- The privileged instructions in supervisor mode (R372 to R375, R377 to R380). -/
def Obligations.SupervisorResult : Prop :=
  ∀ (ea : Ea) (n : Fin 8) (s : State), s.sup = true →
    (operandReadable .w ea s = true →
      exec (.moveToSr ea) s = .next ((afterOperand .w ea s).putSr ((operandValue .w ea s).setWidth 16))) ∧
    (wordsReady s 1 = true →
      exec .andiToSr s = .next ((s.afterWords 1).putSr (s.getSr &&& s.streamWord 0)) ∧
      exec .oriToSr s = .next ((s.afterWords 1).putSr (s.getSr ||| s.streamWord 0)) ∧
      exec .eoriToSr s = .next ((s.afterWords 1).putSr (s.getSr ^^^ s.streamWord 0)) ∧
      exec .stop s = .next (((s.afterWords 1).putSr (s.streamWord 0)).setHalted true)) ∧
    exec (.moveFromUsp n) s = .next (s.setA n s.usp) ∧
    exec (.moveToUsp n) s = .next (s.setUsp (s.areg n)) ∧
    exec .reset s = .next s

/-- TRAP (R382), TRAPV (R383), ILLEGAL (R385) and CHK (R384): the vector each raises and when; CHK compares low words
as signed numbers, N tells which bound, the other flags are free (U4). -/
def Obligations.TrapResult : Prop :=
  ∀ (vec : Fin 16) (ea : Ea) (n : Fin 8) (s : State),
    let u := (afterOperand .w ea s).setDrawn (s.drawn + 1)
    let d := ((s.dreg n).setWidth 16).toInt
    let bound := ((operandValue .w ea s).setWidth 16).toInt
    exec (.trap vec) s = .next (afterRaise (BitVec.ofNat 8 (32 + vec.val)) s) ∧
    (s.ccr.v = true → exec .trapv s = .next (afterRaise 7 s)) ∧
    (s.ccr.v = false → exec .trapv s = .next s) ∧
    exec .illegal s = .next (afterRaise 4 (s.setPc (s.pc - 2))) ∧
    (operandReadable .w ea s = true →
      (d < 0 → ∃ z v c, exec (.chk ea n) s =
        .next (afterRaise 6 (u.setCcr { x := s.ccr.x, n := true, z := z, v := v, c := c }))) ∧
      (0 ≤ d → bound < d → ∃ z v c, exec (.chk ea n) s =
        .next (afterRaise 6 (u.setCcr { x := s.ccr.x, n := false, z := z, v := v, c := c }))) ∧
      (0 ≤ d → d ≤ bound → ∃ fn z v c, exec (.chk ea n) s =
        .next (u.setCcr { x := s.ccr.x, n := fn, z := z, v := v, c := c })))

/-! ### Frames: what an instruction leaves unchanged -/

/-- Every data register but those the instruction's rule writes, and every address register but its destination, the
registers its operand forms step, and A7 where it uses the stack or may change the mode, is unchanged (R29, R155, each
instruction's rule). -/
def Obligations.FrameRegisters : Prop :=
  ∀ (i : Instr) (s t : State), i.wf = true → exec i s = .next t →
    (∀ n, n ∉ writesD i s → t.dreg n = s.dreg n) ∧ (∀ n, n ∉ writesA i s → t.areg n = s.areg n)

/-- An instruction that stores nothing in the form it has leaves memory as it is (R63): a register destination, a
comparison, a form that only reads. -/
def Obligations.FrameNoStore : Prop :=
  ∀ (i : Instr) (s t : State), i.wf = true → storesTo i s = [] → exec i s = .next t → t.mem = s.mem

/-- An instruction that stores leaves every byte but those it stores to, at the addresses its rule computes: one operand,
the stack slot, MOVEM's and MOVEP's transfers (R63, R154). -/
def Obligations.FrameStore : Prop :=
  ∀ (i : Instr) (s t : State), i.wf = true → exec i s = .next t →
    ∀ b, b ∉ storesTo i s → Memory.get t.mem b = Memory.get s.mem b

/-- The flags and the rest of the status (R29, R241, R290, R330, R434): the instructions that write no flag leave all
five; those that never write X leave it; the bit instructions write Z alone; T, S and I change only in the six
privileged writers of SR. -/
def Obligations.FrameStatus : Prop :=
  ∀ (i : Instr) (s t : State), i.wf = true → exec i s = .next t →
    (writesNoFlag i = true → t.ccr = s.ccr) ∧
    (keepsX i = true → t.ccr.x = s.ccr.x) ∧
    (writesZOnly i = true → t.ccr.x = s.ccr.x ∧ t.ccr.n = s.ccr.n ∧ t.ccr.v = s.ccr.v ∧ t.ccr.c = s.ccr.c) ∧
    (writesSr i = false → t.t = s.t ∧ t.sup = s.sup ∧ t.imask = s.imask)

/-- The other registers (R23, R40, R41, R193): the opcode register, the trace latch and the parameters never change in an
instruction; halted changes only in STOP, which sets it; a shadow stack pointer changes only with the mode, or USP in
MOVE An,USP. The device history, the model's form of the device's state (log 3), only grows, by accesses at addresses
of a device window (R74, R77), and the pending interrupt level changes only where such an access was made (R35, R77).
The model's count of free values changes only in the instructions whose rule leaves a value open (U1, U2, U4; log 4). -/
def Obligations.FrameSpecial : Prop :=
  ∀ (i : Instr) (s t : State), i.wf = true → exec i s = .next t →
    t.ir = s.ir ∧ t.tracePend = s.tracePend ∧ t.config = s.config ∧
    (t.halted = s.halted ∨ (i = .stop ∧ t.halted = true)) ∧
    (t.sup = s.sup → t.ssp = s.ssp ∧ (t.usp = s.usp ∨ ∃ n, i = .moveToUsp n)) ∧
    (∃ l, t.devLog = l ++ s.devLog ∧ (l = [] → t.ipl = s.ipl) ∧
      ∀ e ∈ l, regionAt s.config e.addr = .window) ∧
    (drawsFree i = false → t.drawn = s.drawn)

/-! ### Invariants and whole-machine rules -/

/-- The invariants hold at reset, where no vector is pending. That memory at reset lists nothing and reads 0, so that pc
there is even, is the model's choice (log 2): R44 and R462 leave the image to the host. -/
def Obligations.ResetInv : Prop :=
  Machine.Inv State.reset ∧ State.reset.pendVec = 0 ∧ State.reset.pendVec ∈ pendable State.reset.config

/-- Every step keeps the invariant (R25, R27, R75): RAM in its canonical form with RAM addresses only, an even pc; and
no step changes a parameter (R43). -/
def Obligations.StepKeepsInv : Prop :=
  ∀ s t : State, Machine.Inv s → step s = .next t → Machine.Inv t ∧ t.config = s.config

/-- The list of exceptions is closed (R400, R401): from a state whose pending vector is one the core raises, every step
leaves one. -/
def Obligations.StepKeepsVectors : Prop :=
  ∀ s t : State, s.pendVec ∈ pendable s.config → step s = .next t → t.pendVec ∈ pendable t.config

/-- User mode is confined (R434, R435): no instruction run in user mode changes S, T, I, a shadow stack pointer or the
STOP state. -/
def Obligations.UserModeConfined : Prop :=
  ∀ (i : Instr) (s t : State), i.wf = true → s.sup = false → exec i s = .next t →
    t.sup = false ∧ t.t = s.t ∧ t.imask = s.imask ∧ t.usp = s.usp ∧ t.ssp = s.ssp ∧ t.halted = s.halted

/-- Entering and leaving supervisor mode (R435): a step enters it only by a delivery, and leaves it only by executing
RTE, MOVE to SR, ANDI to SR, EORI to SR or STOP; reset enters it. -/
def Obligations.ModeChanges : Prop :=
  (∀ s t : State, step s = .next t →
    (s.sup = false → t.sup = true →
      enabled s = .deliverException ∨ enabled s = .deliverTrace ∨ enabled s = .deliverInterrupt) ∧
    (s.sup = true → t.sup = false → enabled s = .execOne ∧
      ∃ i, decodeOp (s.streamWord 0) = .ok i ∧
        (i = .rte ∨ (∃ e, i = .moveToSr e) ∨ i = .andiToSr ∨ i = .eoriToSr ∨ i = .stop))) ∧
  (∀ s t : State, hostReset s = .next t → t.sup = true)
end

