-- ==== Sys2Proof/Laws/State.lean ====
section
/-! SUPPORT. What each named update of State makes of each field: one lemma per field per update, all `@[simp]`, so
that no later proof unfolds a record update; then how registers read after a register write. -/
namespace Sys2Proof.Machine

variable (s : State)

/-! ### setD -/

@[simp] theorem State.setD_d (n : Fin 8) (v : Word) : (s.setD n v).d = s.d.set n.val v n.isLt := rfl
@[simp] theorem State.setD_a (n : Fin 8) (v : Word) : (s.setD n v).a = s.a := rfl
@[simp] theorem State.setD_usp (n : Fin 8) (v : Word) : (s.setD n v).usp = s.usp := rfl
@[simp] theorem State.setD_ssp (n : Fin 8) (v : Word) : (s.setD n v).ssp = s.ssp := rfl
@[simp] theorem State.setD_pc (n : Fin 8) (v : Word) : (s.setD n v).pc = s.pc := rfl
@[simp] theorem State.setD_t (n : Fin 8) (v : Word) : (s.setD n v).t = s.t := rfl
@[simp] theorem State.setD_sup (n : Fin 8) (v : Word) : (s.setD n v).sup = s.sup := rfl
@[simp] theorem State.setD_imask (n : Fin 8) (v : Word) : (s.setD n v).imask = s.imask := rfl
@[simp] theorem State.setD_ccr (n : Fin 8) (v : Word) : (s.setD n v).ccr = s.ccr := rfl
@[simp] theorem State.setD_pendVec (n : Fin 8) (v : Word) : (s.setD n v).pendVec = s.pendVec := rfl
@[simp] theorem State.setD_ipl (n : Fin 8) (v : Word) : (s.setD n v).ipl = s.ipl := rfl
@[simp] theorem State.setD_tracePend (n : Fin 8) (v : Word) : (s.setD n v).tracePend = s.tracePend := rfl
@[simp] theorem State.setD_badAddr (n : Fin 8) (v : Word) : (s.setD n v).badAddr = s.badAddr := rfl
@[simp] theorem State.setD_badDir (n : Fin 8) (v : Word) : (s.setD n v).badDir = s.badDir := rfl
@[simp] theorem State.setD_badS (n : Fin 8) (v : Word) : (s.setD n v).badS = s.badS := rfl
@[simp] theorem State.setD_badCtx (n : Fin 8) (v : Word) : (s.setD n v).badCtx = s.badCtx := rfl
@[simp] theorem State.setD_budget (n : Fin 8) (v : Word) : (s.setD n v).budget = s.budget := rfl
@[simp] theorem State.setD_budgetSaved (n : Fin 8) (v : Word) : (s.setD n v).budgetSaved = s.budgetSaved := rfl
@[simp] theorem State.setD_attention (n : Fin 8) (v : Word) : (s.setD n v).attention = s.attention := rfl
@[simp] theorem State.setD_halted (n : Fin 8) (v : Word) : (s.setD n v).halted = s.halted := rfl
@[simp] theorem State.setD_ir (n : Fin 8) (v : Word) : (s.setD n v).ir = s.ir := rfl
@[simp] theorem State.setD_mem (n : Fin 8) (v : Word) : (s.setD n v).mem = s.mem := rfl
@[simp] theorem State.setD_devLog (n : Fin 8) (v : Word) : (s.setD n v).devLog = s.devLog := rfl
@[simp] theorem State.setD_drawn (n : Fin 8) (v : Word) : (s.setD n v).drawn = s.drawn := rfl
@[simp] theorem State.setD_config (n : Fin 8) (v : Word) : (s.setD n v).config = s.config := rfl
@[simp] theorem State.setD_areg (n : Fin 8) (v : Word) (k : Fin 8) : (s.setD n v).areg k = s.areg k := rfl

/-! ### setA -/

@[simp] theorem State.setA_d (n : Fin 8) (v : Word) : (s.setA n v).d = s.d := rfl
@[simp] theorem State.setA_a (n : Fin 8) (v : Word) : (s.setA n v).a = s.a.set n.val v n.isLt := rfl
@[simp] theorem State.setA_usp (n : Fin 8) (v : Word) : (s.setA n v).usp = s.usp := rfl
@[simp] theorem State.setA_ssp (n : Fin 8) (v : Word) : (s.setA n v).ssp = s.ssp := rfl
@[simp] theorem State.setA_pc (n : Fin 8) (v : Word) : (s.setA n v).pc = s.pc := rfl
@[simp] theorem State.setA_t (n : Fin 8) (v : Word) : (s.setA n v).t = s.t := rfl
@[simp] theorem State.setA_sup (n : Fin 8) (v : Word) : (s.setA n v).sup = s.sup := rfl
@[simp] theorem State.setA_imask (n : Fin 8) (v : Word) : (s.setA n v).imask = s.imask := rfl
@[simp] theorem State.setA_ccr (n : Fin 8) (v : Word) : (s.setA n v).ccr = s.ccr := rfl
@[simp] theorem State.setA_pendVec (n : Fin 8) (v : Word) : (s.setA n v).pendVec = s.pendVec := rfl
@[simp] theorem State.setA_ipl (n : Fin 8) (v : Word) : (s.setA n v).ipl = s.ipl := rfl
@[simp] theorem State.setA_tracePend (n : Fin 8) (v : Word) : (s.setA n v).tracePend = s.tracePend := rfl
@[simp] theorem State.setA_badAddr (n : Fin 8) (v : Word) : (s.setA n v).badAddr = s.badAddr := rfl
@[simp] theorem State.setA_badDir (n : Fin 8) (v : Word) : (s.setA n v).badDir = s.badDir := rfl
@[simp] theorem State.setA_badS (n : Fin 8) (v : Word) : (s.setA n v).badS = s.badS := rfl
@[simp] theorem State.setA_badCtx (n : Fin 8) (v : Word) : (s.setA n v).badCtx = s.badCtx := rfl
@[simp] theorem State.setA_budget (n : Fin 8) (v : Word) : (s.setA n v).budget = s.budget := rfl
@[simp] theorem State.setA_budgetSaved (n : Fin 8) (v : Word) : (s.setA n v).budgetSaved = s.budgetSaved := rfl
@[simp] theorem State.setA_attention (n : Fin 8) (v : Word) : (s.setA n v).attention = s.attention := rfl
@[simp] theorem State.setA_halted (n : Fin 8) (v : Word) : (s.setA n v).halted = s.halted := rfl
@[simp] theorem State.setA_ir (n : Fin 8) (v : Word) : (s.setA n v).ir = s.ir := rfl
@[simp] theorem State.setA_mem (n : Fin 8) (v : Word) : (s.setA n v).mem = s.mem := rfl
@[simp] theorem State.setA_devLog (n : Fin 8) (v : Word) : (s.setA n v).devLog = s.devLog := rfl
@[simp] theorem State.setA_drawn (n : Fin 8) (v : Word) : (s.setA n v).drawn = s.drawn := rfl
@[simp] theorem State.setA_config (n : Fin 8) (v : Word) : (s.setA n v).config = s.config := rfl
@[simp] theorem State.setA_dreg (n : Fin 8) (v : Word) (k : Fin 8) : (s.setA n v).dreg k = s.dreg k := rfl

/-! ### setUsp -/

@[simp] theorem State.setUsp_d (v : Word) : (s.setUsp v).d = s.d := rfl
@[simp] theorem State.setUsp_a (v : Word) : (s.setUsp v).a = s.a := rfl
@[simp] theorem State.setUsp_usp (v : Word) : (s.setUsp v).usp = v := rfl
@[simp] theorem State.setUsp_ssp (v : Word) : (s.setUsp v).ssp = s.ssp := rfl
@[simp] theorem State.setUsp_pc (v : Word) : (s.setUsp v).pc = s.pc := rfl
@[simp] theorem State.setUsp_t (v : Word) : (s.setUsp v).t = s.t := rfl
@[simp] theorem State.setUsp_sup (v : Word) : (s.setUsp v).sup = s.sup := rfl
@[simp] theorem State.setUsp_imask (v : Word) : (s.setUsp v).imask = s.imask := rfl
@[simp] theorem State.setUsp_ccr (v : Word) : (s.setUsp v).ccr = s.ccr := rfl
@[simp] theorem State.setUsp_pendVec (v : Word) : (s.setUsp v).pendVec = s.pendVec := rfl
@[simp] theorem State.setUsp_ipl (v : Word) : (s.setUsp v).ipl = s.ipl := rfl
@[simp] theorem State.setUsp_tracePend (v : Word) : (s.setUsp v).tracePend = s.tracePend := rfl
@[simp] theorem State.setUsp_badAddr (v : Word) : (s.setUsp v).badAddr = s.badAddr := rfl
@[simp] theorem State.setUsp_badDir (v : Word) : (s.setUsp v).badDir = s.badDir := rfl
@[simp] theorem State.setUsp_badS (v : Word) : (s.setUsp v).badS = s.badS := rfl
@[simp] theorem State.setUsp_badCtx (v : Word) : (s.setUsp v).badCtx = s.badCtx := rfl
@[simp] theorem State.setUsp_budget (v : Word) : (s.setUsp v).budget = s.budget := rfl
@[simp] theorem State.setUsp_budgetSaved (v : Word) : (s.setUsp v).budgetSaved = s.budgetSaved := rfl
@[simp] theorem State.setUsp_attention (v : Word) : (s.setUsp v).attention = s.attention := rfl
@[simp] theorem State.setUsp_halted (v : Word) : (s.setUsp v).halted = s.halted := rfl
@[simp] theorem State.setUsp_ir (v : Word) : (s.setUsp v).ir = s.ir := rfl
@[simp] theorem State.setUsp_mem (v : Word) : (s.setUsp v).mem = s.mem := rfl
@[simp] theorem State.setUsp_devLog (v : Word) : (s.setUsp v).devLog = s.devLog := rfl
@[simp] theorem State.setUsp_drawn (v : Word) : (s.setUsp v).drawn = s.drawn := rfl
@[simp] theorem State.setUsp_config (v : Word) : (s.setUsp v).config = s.config := rfl
@[simp] theorem State.setUsp_dreg (v : Word) (k : Fin 8) : (s.setUsp v).dreg k = s.dreg k := rfl
@[simp] theorem State.setUsp_areg (v : Word) (k : Fin 8) : (s.setUsp v).areg k = s.areg k := rfl

/-! ### setSsp -/

@[simp] theorem State.setSsp_d (v : Word) : (s.setSsp v).d = s.d := rfl
@[simp] theorem State.setSsp_a (v : Word) : (s.setSsp v).a = s.a := rfl
@[simp] theorem State.setSsp_usp (v : Word) : (s.setSsp v).usp = s.usp := rfl
@[simp] theorem State.setSsp_ssp (v : Word) : (s.setSsp v).ssp = v := rfl
@[simp] theorem State.setSsp_pc (v : Word) : (s.setSsp v).pc = s.pc := rfl
@[simp] theorem State.setSsp_t (v : Word) : (s.setSsp v).t = s.t := rfl
@[simp] theorem State.setSsp_sup (v : Word) : (s.setSsp v).sup = s.sup := rfl
@[simp] theorem State.setSsp_imask (v : Word) : (s.setSsp v).imask = s.imask := rfl
@[simp] theorem State.setSsp_ccr (v : Word) : (s.setSsp v).ccr = s.ccr := rfl
@[simp] theorem State.setSsp_pendVec (v : Word) : (s.setSsp v).pendVec = s.pendVec := rfl
@[simp] theorem State.setSsp_ipl (v : Word) : (s.setSsp v).ipl = s.ipl := rfl
@[simp] theorem State.setSsp_tracePend (v : Word) : (s.setSsp v).tracePend = s.tracePend := rfl
@[simp] theorem State.setSsp_badAddr (v : Word) : (s.setSsp v).badAddr = s.badAddr := rfl
@[simp] theorem State.setSsp_badDir (v : Word) : (s.setSsp v).badDir = s.badDir := rfl
@[simp] theorem State.setSsp_badS (v : Word) : (s.setSsp v).badS = s.badS := rfl
@[simp] theorem State.setSsp_badCtx (v : Word) : (s.setSsp v).badCtx = s.badCtx := rfl
@[simp] theorem State.setSsp_budget (v : Word) : (s.setSsp v).budget = s.budget := rfl
@[simp] theorem State.setSsp_budgetSaved (v : Word) : (s.setSsp v).budgetSaved = s.budgetSaved := rfl
@[simp] theorem State.setSsp_attention (v : Word) : (s.setSsp v).attention = s.attention := rfl
@[simp] theorem State.setSsp_halted (v : Word) : (s.setSsp v).halted = s.halted := rfl
@[simp] theorem State.setSsp_ir (v : Word) : (s.setSsp v).ir = s.ir := rfl
@[simp] theorem State.setSsp_mem (v : Word) : (s.setSsp v).mem = s.mem := rfl
@[simp] theorem State.setSsp_devLog (v : Word) : (s.setSsp v).devLog = s.devLog := rfl
@[simp] theorem State.setSsp_drawn (v : Word) : (s.setSsp v).drawn = s.drawn := rfl
@[simp] theorem State.setSsp_config (v : Word) : (s.setSsp v).config = s.config := rfl
@[simp] theorem State.setSsp_dreg (v : Word) (k : Fin 8) : (s.setSsp v).dreg k = s.dreg k := rfl
@[simp] theorem State.setSsp_areg (v : Word) (k : Fin 8) : (s.setSsp v).areg k = s.areg k := rfl

/-! ### setPc -/

@[simp] theorem State.setPc_d (v : Word) : (s.setPc v).d = s.d := rfl
@[simp] theorem State.setPc_a (v : Word) : (s.setPc v).a = s.a := rfl
@[simp] theorem State.setPc_usp (v : Word) : (s.setPc v).usp = s.usp := rfl
@[simp] theorem State.setPc_ssp (v : Word) : (s.setPc v).ssp = s.ssp := rfl
@[simp] theorem State.setPc_pc (v : Word) : (s.setPc v).pc = v := rfl
@[simp] theorem State.setPc_t (v : Word) : (s.setPc v).t = s.t := rfl
@[simp] theorem State.setPc_sup (v : Word) : (s.setPc v).sup = s.sup := rfl
@[simp] theorem State.setPc_imask (v : Word) : (s.setPc v).imask = s.imask := rfl
@[simp] theorem State.setPc_ccr (v : Word) : (s.setPc v).ccr = s.ccr := rfl
@[simp] theorem State.setPc_pendVec (v : Word) : (s.setPc v).pendVec = s.pendVec := rfl
@[simp] theorem State.setPc_ipl (v : Word) : (s.setPc v).ipl = s.ipl := rfl
@[simp] theorem State.setPc_tracePend (v : Word) : (s.setPc v).tracePend = s.tracePend := rfl
@[simp] theorem State.setPc_badAddr (v : Word) : (s.setPc v).badAddr = s.badAddr := rfl
@[simp] theorem State.setPc_badDir (v : Word) : (s.setPc v).badDir = s.badDir := rfl
@[simp] theorem State.setPc_badS (v : Word) : (s.setPc v).badS = s.badS := rfl
@[simp] theorem State.setPc_badCtx (v : Word) : (s.setPc v).badCtx = s.badCtx := rfl
@[simp] theorem State.setPc_budget (v : Word) : (s.setPc v).budget = s.budget := rfl
@[simp] theorem State.setPc_budgetSaved (v : Word) : (s.setPc v).budgetSaved = s.budgetSaved := rfl
@[simp] theorem State.setPc_attention (v : Word) : (s.setPc v).attention = s.attention := rfl
@[simp] theorem State.setPc_halted (v : Word) : (s.setPc v).halted = s.halted := rfl
@[simp] theorem State.setPc_ir (v : Word) : (s.setPc v).ir = s.ir := rfl
@[simp] theorem State.setPc_mem (v : Word) : (s.setPc v).mem = s.mem := rfl
@[simp] theorem State.setPc_devLog (v : Word) : (s.setPc v).devLog = s.devLog := rfl
@[simp] theorem State.setPc_drawn (v : Word) : (s.setPc v).drawn = s.drawn := rfl
@[simp] theorem State.setPc_config (v : Word) : (s.setPc v).config = s.config := rfl
@[simp] theorem State.setPc_dreg (v : Word) (k : Fin 8) : (s.setPc v).dreg k = s.dreg k := rfl
@[simp] theorem State.setPc_areg (v : Word) (k : Fin 8) : (s.setPc v).areg k = s.areg k := rfl

/-! ### setT -/

@[simp] theorem State.setT_d (v : Bool) : (s.setT v).d = s.d := rfl
@[simp] theorem State.setT_a (v : Bool) : (s.setT v).a = s.a := rfl
@[simp] theorem State.setT_usp (v : Bool) : (s.setT v).usp = s.usp := rfl
@[simp] theorem State.setT_ssp (v : Bool) : (s.setT v).ssp = s.ssp := rfl
@[simp] theorem State.setT_pc (v : Bool) : (s.setT v).pc = s.pc := rfl
@[simp] theorem State.setT_t (v : Bool) : (s.setT v).t = v := rfl
@[simp] theorem State.setT_sup (v : Bool) : (s.setT v).sup = s.sup := rfl
@[simp] theorem State.setT_imask (v : Bool) : (s.setT v).imask = s.imask := rfl
@[simp] theorem State.setT_ccr (v : Bool) : (s.setT v).ccr = s.ccr := rfl
@[simp] theorem State.setT_pendVec (v : Bool) : (s.setT v).pendVec = s.pendVec := rfl
@[simp] theorem State.setT_ipl (v : Bool) : (s.setT v).ipl = s.ipl := rfl
@[simp] theorem State.setT_tracePend (v : Bool) : (s.setT v).tracePend = s.tracePend := rfl
@[simp] theorem State.setT_badAddr (v : Bool) : (s.setT v).badAddr = s.badAddr := rfl
@[simp] theorem State.setT_badDir (v : Bool) : (s.setT v).badDir = s.badDir := rfl
@[simp] theorem State.setT_badS (v : Bool) : (s.setT v).badS = s.badS := rfl
@[simp] theorem State.setT_badCtx (v : Bool) : (s.setT v).badCtx = s.badCtx := rfl
@[simp] theorem State.setT_budget (v : Bool) : (s.setT v).budget = s.budget := rfl
@[simp] theorem State.setT_budgetSaved (v : Bool) : (s.setT v).budgetSaved = s.budgetSaved := rfl
@[simp] theorem State.setT_attention (v : Bool) : (s.setT v).attention = s.attention := rfl
@[simp] theorem State.setT_halted (v : Bool) : (s.setT v).halted = s.halted := rfl
@[simp] theorem State.setT_ir (v : Bool) : (s.setT v).ir = s.ir := rfl
@[simp] theorem State.setT_mem (v : Bool) : (s.setT v).mem = s.mem := rfl
@[simp] theorem State.setT_devLog (v : Bool) : (s.setT v).devLog = s.devLog := rfl
@[simp] theorem State.setT_drawn (v : Bool) : (s.setT v).drawn = s.drawn := rfl
@[simp] theorem State.setT_config (v : Bool) : (s.setT v).config = s.config := rfl
@[simp] theorem State.setT_dreg (v : Bool) (k : Fin 8) : (s.setT v).dreg k = s.dreg k := rfl
@[simp] theorem State.setT_areg (v : Bool) (k : Fin 8) : (s.setT v).areg k = s.areg k := rfl

/-! ### setSup -/

@[simp] theorem State.setSup_d (v : Bool) : (s.setSup v).d = s.d := rfl
@[simp] theorem State.setSup_a (v : Bool) : (s.setSup v).a = s.a := rfl
@[simp] theorem State.setSup_usp (v : Bool) : (s.setSup v).usp = s.usp := rfl
@[simp] theorem State.setSup_ssp (v : Bool) : (s.setSup v).ssp = s.ssp := rfl
@[simp] theorem State.setSup_pc (v : Bool) : (s.setSup v).pc = s.pc := rfl
@[simp] theorem State.setSup_t (v : Bool) : (s.setSup v).t = s.t := rfl
@[simp] theorem State.setSup_sup (v : Bool) : (s.setSup v).sup = v := rfl
@[simp] theorem State.setSup_imask (v : Bool) : (s.setSup v).imask = s.imask := rfl
@[simp] theorem State.setSup_ccr (v : Bool) : (s.setSup v).ccr = s.ccr := rfl
@[simp] theorem State.setSup_pendVec (v : Bool) : (s.setSup v).pendVec = s.pendVec := rfl
@[simp] theorem State.setSup_ipl (v : Bool) : (s.setSup v).ipl = s.ipl := rfl
@[simp] theorem State.setSup_tracePend (v : Bool) : (s.setSup v).tracePend = s.tracePend := rfl
@[simp] theorem State.setSup_badAddr (v : Bool) : (s.setSup v).badAddr = s.badAddr := rfl
@[simp] theorem State.setSup_badDir (v : Bool) : (s.setSup v).badDir = s.badDir := rfl
@[simp] theorem State.setSup_badS (v : Bool) : (s.setSup v).badS = s.badS := rfl
@[simp] theorem State.setSup_badCtx (v : Bool) : (s.setSup v).badCtx = s.badCtx := rfl
@[simp] theorem State.setSup_budget (v : Bool) : (s.setSup v).budget = s.budget := rfl
@[simp] theorem State.setSup_budgetSaved (v : Bool) : (s.setSup v).budgetSaved = s.budgetSaved := rfl
@[simp] theorem State.setSup_attention (v : Bool) : (s.setSup v).attention = s.attention := rfl
@[simp] theorem State.setSup_halted (v : Bool) : (s.setSup v).halted = s.halted := rfl
@[simp] theorem State.setSup_ir (v : Bool) : (s.setSup v).ir = s.ir := rfl
@[simp] theorem State.setSup_mem (v : Bool) : (s.setSup v).mem = s.mem := rfl
@[simp] theorem State.setSup_devLog (v : Bool) : (s.setSup v).devLog = s.devLog := rfl
@[simp] theorem State.setSup_drawn (v : Bool) : (s.setSup v).drawn = s.drawn := rfl
@[simp] theorem State.setSup_config (v : Bool) : (s.setSup v).config = s.config := rfl
@[simp] theorem State.setSup_dreg (v : Bool) (k : Fin 8) : (s.setSup v).dreg k = s.dreg k := rfl
@[simp] theorem State.setSup_areg (v : Bool) (k : Fin 8) : (s.setSup v).areg k = s.areg k := rfl

/-! ### setImask -/

@[simp] theorem State.setImask_d (v : BitVec 3) : (s.setImask v).d = s.d := rfl
@[simp] theorem State.setImask_a (v : BitVec 3) : (s.setImask v).a = s.a := rfl
@[simp] theorem State.setImask_usp (v : BitVec 3) : (s.setImask v).usp = s.usp := rfl
@[simp] theorem State.setImask_ssp (v : BitVec 3) : (s.setImask v).ssp = s.ssp := rfl
@[simp] theorem State.setImask_pc (v : BitVec 3) : (s.setImask v).pc = s.pc := rfl
@[simp] theorem State.setImask_t (v : BitVec 3) : (s.setImask v).t = s.t := rfl
@[simp] theorem State.setImask_sup (v : BitVec 3) : (s.setImask v).sup = s.sup := rfl
@[simp] theorem State.setImask_imask (v : BitVec 3) : (s.setImask v).imask = v := rfl
@[simp] theorem State.setImask_ccr (v : BitVec 3) : (s.setImask v).ccr = s.ccr := rfl
@[simp] theorem State.setImask_pendVec (v : BitVec 3) : (s.setImask v).pendVec = s.pendVec := rfl
@[simp] theorem State.setImask_ipl (v : BitVec 3) : (s.setImask v).ipl = s.ipl := rfl
@[simp] theorem State.setImask_tracePend (v : BitVec 3) : (s.setImask v).tracePend = s.tracePend := rfl
@[simp] theorem State.setImask_badAddr (v : BitVec 3) : (s.setImask v).badAddr = s.badAddr := rfl
@[simp] theorem State.setImask_badDir (v : BitVec 3) : (s.setImask v).badDir = s.badDir := rfl
@[simp] theorem State.setImask_badS (v : BitVec 3) : (s.setImask v).badS = s.badS := rfl
@[simp] theorem State.setImask_badCtx (v : BitVec 3) : (s.setImask v).badCtx = s.badCtx := rfl
@[simp] theorem State.setImask_budget (v : BitVec 3) : (s.setImask v).budget = s.budget := rfl
@[simp] theorem State.setImask_budgetSaved (v : BitVec 3) : (s.setImask v).budgetSaved = s.budgetSaved := rfl
@[simp] theorem State.setImask_attention (v : BitVec 3) : (s.setImask v).attention = s.attention := rfl
@[simp] theorem State.setImask_halted (v : BitVec 3) : (s.setImask v).halted = s.halted := rfl
@[simp] theorem State.setImask_ir (v : BitVec 3) : (s.setImask v).ir = s.ir := rfl
@[simp] theorem State.setImask_mem (v : BitVec 3) : (s.setImask v).mem = s.mem := rfl
@[simp] theorem State.setImask_devLog (v : BitVec 3) : (s.setImask v).devLog = s.devLog := rfl
@[simp] theorem State.setImask_drawn (v : BitVec 3) : (s.setImask v).drawn = s.drawn := rfl
@[simp] theorem State.setImask_config (v : BitVec 3) : (s.setImask v).config = s.config := rfl
@[simp] theorem State.setImask_dreg (v : BitVec 3) (k : Fin 8) : (s.setImask v).dreg k = s.dreg k := rfl
@[simp] theorem State.setImask_areg (v : BitVec 3) (k : Fin 8) : (s.setImask v).areg k = s.areg k := rfl

/-! ### setCcr -/

@[simp] theorem State.setCcr_d (v : Ccr) : (s.setCcr v).d = s.d := rfl
@[simp] theorem State.setCcr_a (v : Ccr) : (s.setCcr v).a = s.a := rfl
@[simp] theorem State.setCcr_usp (v : Ccr) : (s.setCcr v).usp = s.usp := rfl
@[simp] theorem State.setCcr_ssp (v : Ccr) : (s.setCcr v).ssp = s.ssp := rfl
@[simp] theorem State.setCcr_pc (v : Ccr) : (s.setCcr v).pc = s.pc := rfl
@[simp] theorem State.setCcr_t (v : Ccr) : (s.setCcr v).t = s.t := rfl
@[simp] theorem State.setCcr_sup (v : Ccr) : (s.setCcr v).sup = s.sup := rfl
@[simp] theorem State.setCcr_imask (v : Ccr) : (s.setCcr v).imask = s.imask := rfl
@[simp] theorem State.setCcr_ccr (v : Ccr) : (s.setCcr v).ccr = v := rfl
@[simp] theorem State.setCcr_pendVec (v : Ccr) : (s.setCcr v).pendVec = s.pendVec := rfl
@[simp] theorem State.setCcr_ipl (v : Ccr) : (s.setCcr v).ipl = s.ipl := rfl
@[simp] theorem State.setCcr_tracePend (v : Ccr) : (s.setCcr v).tracePend = s.tracePend := rfl
@[simp] theorem State.setCcr_badAddr (v : Ccr) : (s.setCcr v).badAddr = s.badAddr := rfl
@[simp] theorem State.setCcr_badDir (v : Ccr) : (s.setCcr v).badDir = s.badDir := rfl
@[simp] theorem State.setCcr_badS (v : Ccr) : (s.setCcr v).badS = s.badS := rfl
@[simp] theorem State.setCcr_badCtx (v : Ccr) : (s.setCcr v).badCtx = s.badCtx := rfl
@[simp] theorem State.setCcr_budget (v : Ccr) : (s.setCcr v).budget = s.budget := rfl
@[simp] theorem State.setCcr_budgetSaved (v : Ccr) : (s.setCcr v).budgetSaved = s.budgetSaved := rfl
@[simp] theorem State.setCcr_attention (v : Ccr) : (s.setCcr v).attention = s.attention := rfl
@[simp] theorem State.setCcr_halted (v : Ccr) : (s.setCcr v).halted = s.halted := rfl
@[simp] theorem State.setCcr_ir (v : Ccr) : (s.setCcr v).ir = s.ir := rfl
@[simp] theorem State.setCcr_mem (v : Ccr) : (s.setCcr v).mem = s.mem := rfl
@[simp] theorem State.setCcr_devLog (v : Ccr) : (s.setCcr v).devLog = s.devLog := rfl
@[simp] theorem State.setCcr_drawn (v : Ccr) : (s.setCcr v).drawn = s.drawn := rfl
@[simp] theorem State.setCcr_config (v : Ccr) : (s.setCcr v).config = s.config := rfl
@[simp] theorem State.setCcr_dreg (v : Ccr) (k : Fin 8) : (s.setCcr v).dreg k = s.dreg k := rfl
@[simp] theorem State.setCcr_areg (v : Ccr) (k : Fin 8) : (s.setCcr v).areg k = s.areg k := rfl

/-! ### setPendVec -/

@[simp] theorem State.setPendVec_d (v : BitVec 8) : (s.setPendVec v).d = s.d := rfl
@[simp] theorem State.setPendVec_a (v : BitVec 8) : (s.setPendVec v).a = s.a := rfl
@[simp] theorem State.setPendVec_usp (v : BitVec 8) : (s.setPendVec v).usp = s.usp := rfl
@[simp] theorem State.setPendVec_ssp (v : BitVec 8) : (s.setPendVec v).ssp = s.ssp := rfl
@[simp] theorem State.setPendVec_pc (v : BitVec 8) : (s.setPendVec v).pc = s.pc := rfl
@[simp] theorem State.setPendVec_t (v : BitVec 8) : (s.setPendVec v).t = s.t := rfl
@[simp] theorem State.setPendVec_sup (v : BitVec 8) : (s.setPendVec v).sup = s.sup := rfl
@[simp] theorem State.setPendVec_imask (v : BitVec 8) : (s.setPendVec v).imask = s.imask := rfl
@[simp] theorem State.setPendVec_ccr (v : BitVec 8) : (s.setPendVec v).ccr = s.ccr := rfl
@[simp] theorem State.setPendVec_pendVec (v : BitVec 8) : (s.setPendVec v).pendVec = v := rfl
@[simp] theorem State.setPendVec_ipl (v : BitVec 8) : (s.setPendVec v).ipl = s.ipl := rfl
@[simp] theorem State.setPendVec_tracePend (v : BitVec 8) : (s.setPendVec v).tracePend = s.tracePend := rfl
@[simp] theorem State.setPendVec_badAddr (v : BitVec 8) : (s.setPendVec v).badAddr = s.badAddr := rfl
@[simp] theorem State.setPendVec_badDir (v : BitVec 8) : (s.setPendVec v).badDir = s.badDir := rfl
@[simp] theorem State.setPendVec_badS (v : BitVec 8) : (s.setPendVec v).badS = s.badS := rfl
@[simp] theorem State.setPendVec_badCtx (v : BitVec 8) : (s.setPendVec v).badCtx = s.badCtx := rfl
@[simp] theorem State.setPendVec_budget (v : BitVec 8) : (s.setPendVec v).budget = s.budget := rfl
@[simp] theorem State.setPendVec_budgetSaved (v : BitVec 8) : (s.setPendVec v).budgetSaved = s.budgetSaved := rfl
@[simp] theorem State.setPendVec_attention (v : BitVec 8) : (s.setPendVec v).attention = s.attention := rfl
@[simp] theorem State.setPendVec_halted (v : BitVec 8) : (s.setPendVec v).halted = s.halted := rfl
@[simp] theorem State.setPendVec_ir (v : BitVec 8) : (s.setPendVec v).ir = s.ir := rfl
@[simp] theorem State.setPendVec_mem (v : BitVec 8) : (s.setPendVec v).mem = s.mem := rfl
@[simp] theorem State.setPendVec_devLog (v : BitVec 8) : (s.setPendVec v).devLog = s.devLog := rfl
@[simp] theorem State.setPendVec_drawn (v : BitVec 8) : (s.setPendVec v).drawn = s.drawn := rfl
@[simp] theorem State.setPendVec_config (v : BitVec 8) : (s.setPendVec v).config = s.config := rfl
@[simp] theorem State.setPendVec_dreg (v : BitVec 8) (k : Fin 8) : (s.setPendVec v).dreg k = s.dreg k := rfl
@[simp] theorem State.setPendVec_areg (v : BitVec 8) (k : Fin 8) : (s.setPendVec v).areg k = s.areg k := rfl

/-! ### setIpl -/

@[simp] theorem State.setIpl_d (v : BitVec 3) : (s.setIpl v).d = s.d := rfl
@[simp] theorem State.setIpl_a (v : BitVec 3) : (s.setIpl v).a = s.a := rfl
@[simp] theorem State.setIpl_usp (v : BitVec 3) : (s.setIpl v).usp = s.usp := rfl
@[simp] theorem State.setIpl_ssp (v : BitVec 3) : (s.setIpl v).ssp = s.ssp := rfl
@[simp] theorem State.setIpl_pc (v : BitVec 3) : (s.setIpl v).pc = s.pc := rfl
@[simp] theorem State.setIpl_t (v : BitVec 3) : (s.setIpl v).t = s.t := rfl
@[simp] theorem State.setIpl_sup (v : BitVec 3) : (s.setIpl v).sup = s.sup := rfl
@[simp] theorem State.setIpl_imask (v : BitVec 3) : (s.setIpl v).imask = s.imask := rfl
@[simp] theorem State.setIpl_ccr (v : BitVec 3) : (s.setIpl v).ccr = s.ccr := rfl
@[simp] theorem State.setIpl_pendVec (v : BitVec 3) : (s.setIpl v).pendVec = s.pendVec := rfl
@[simp] theorem State.setIpl_ipl (v : BitVec 3) : (s.setIpl v).ipl = v := rfl
@[simp] theorem State.setIpl_tracePend (v : BitVec 3) : (s.setIpl v).tracePend = s.tracePend := rfl
@[simp] theorem State.setIpl_badAddr (v : BitVec 3) : (s.setIpl v).badAddr = s.badAddr := rfl
@[simp] theorem State.setIpl_badDir (v : BitVec 3) : (s.setIpl v).badDir = s.badDir := rfl
@[simp] theorem State.setIpl_badS (v : BitVec 3) : (s.setIpl v).badS = s.badS := rfl
@[simp] theorem State.setIpl_badCtx (v : BitVec 3) : (s.setIpl v).badCtx = s.badCtx := rfl
@[simp] theorem State.setIpl_budget (v : BitVec 3) : (s.setIpl v).budget = s.budget := rfl
@[simp] theorem State.setIpl_budgetSaved (v : BitVec 3) : (s.setIpl v).budgetSaved = s.budgetSaved := rfl
@[simp] theorem State.setIpl_attention (v : BitVec 3) : (s.setIpl v).attention = s.attention := rfl
@[simp] theorem State.setIpl_halted (v : BitVec 3) : (s.setIpl v).halted = s.halted := rfl
@[simp] theorem State.setIpl_ir (v : BitVec 3) : (s.setIpl v).ir = s.ir := rfl
@[simp] theorem State.setIpl_mem (v : BitVec 3) : (s.setIpl v).mem = s.mem := rfl
@[simp] theorem State.setIpl_devLog (v : BitVec 3) : (s.setIpl v).devLog = s.devLog := rfl
@[simp] theorem State.setIpl_drawn (v : BitVec 3) : (s.setIpl v).drawn = s.drawn := rfl
@[simp] theorem State.setIpl_config (v : BitVec 3) : (s.setIpl v).config = s.config := rfl
@[simp] theorem State.setIpl_dreg (v : BitVec 3) (k : Fin 8) : (s.setIpl v).dreg k = s.dreg k := rfl
@[simp] theorem State.setIpl_areg (v : BitVec 3) (k : Fin 8) : (s.setIpl v).areg k = s.areg k := rfl

/-! ### setTracePend -/

@[simp] theorem State.setTracePend_d (v : Bool) : (s.setTracePend v).d = s.d := rfl
@[simp] theorem State.setTracePend_a (v : Bool) : (s.setTracePend v).a = s.a := rfl
@[simp] theorem State.setTracePend_usp (v : Bool) : (s.setTracePend v).usp = s.usp := rfl
@[simp] theorem State.setTracePend_ssp (v : Bool) : (s.setTracePend v).ssp = s.ssp := rfl
@[simp] theorem State.setTracePend_pc (v : Bool) : (s.setTracePend v).pc = s.pc := rfl
@[simp] theorem State.setTracePend_t (v : Bool) : (s.setTracePend v).t = s.t := rfl
@[simp] theorem State.setTracePend_sup (v : Bool) : (s.setTracePend v).sup = s.sup := rfl
@[simp] theorem State.setTracePend_imask (v : Bool) : (s.setTracePend v).imask = s.imask := rfl
@[simp] theorem State.setTracePend_ccr (v : Bool) : (s.setTracePend v).ccr = s.ccr := rfl
@[simp] theorem State.setTracePend_pendVec (v : Bool) : (s.setTracePend v).pendVec = s.pendVec := rfl
@[simp] theorem State.setTracePend_ipl (v : Bool) : (s.setTracePend v).ipl = s.ipl := rfl
@[simp] theorem State.setTracePend_tracePend (v : Bool) : (s.setTracePend v).tracePend = v := rfl
@[simp] theorem State.setTracePend_badAddr (v : Bool) : (s.setTracePend v).badAddr = s.badAddr := rfl
@[simp] theorem State.setTracePend_badDir (v : Bool) : (s.setTracePend v).badDir = s.badDir := rfl
@[simp] theorem State.setTracePend_badS (v : Bool) : (s.setTracePend v).badS = s.badS := rfl
@[simp] theorem State.setTracePend_badCtx (v : Bool) : (s.setTracePend v).badCtx = s.badCtx := rfl
@[simp] theorem State.setTracePend_budget (v : Bool) : (s.setTracePend v).budget = s.budget := rfl
@[simp] theorem State.setTracePend_budgetSaved (v : Bool) : (s.setTracePend v).budgetSaved = s.budgetSaved := rfl
@[simp] theorem State.setTracePend_attention (v : Bool) : (s.setTracePend v).attention = s.attention := rfl
@[simp] theorem State.setTracePend_halted (v : Bool) : (s.setTracePend v).halted = s.halted := rfl
@[simp] theorem State.setTracePend_ir (v : Bool) : (s.setTracePend v).ir = s.ir := rfl
@[simp] theorem State.setTracePend_mem (v : Bool) : (s.setTracePend v).mem = s.mem := rfl
@[simp] theorem State.setTracePend_devLog (v : Bool) : (s.setTracePend v).devLog = s.devLog := rfl
@[simp] theorem State.setTracePend_drawn (v : Bool) : (s.setTracePend v).drawn = s.drawn := rfl
@[simp] theorem State.setTracePend_config (v : Bool) : (s.setTracePend v).config = s.config := rfl
@[simp] theorem State.setTracePend_dreg (v : Bool) (k : Fin 8) : (s.setTracePend v).dreg k = s.dreg k := rfl
@[simp] theorem State.setTracePend_areg (v : Bool) (k : Fin 8) : (s.setTracePend v).areg k = s.areg k := rfl

/-! ### setBad -/

@[simp] theorem State.setBad_d (x : Word) (y : Dir) (z : Bool) (w : AccessCtx) : (s.setBad x y z w).d = s.d := rfl
@[simp] theorem State.setBad_a (x : Word) (y : Dir) (z : Bool) (w : AccessCtx) : (s.setBad x y z w).a = s.a := rfl
@[simp] theorem State.setBad_usp (x : Word) (y : Dir) (z : Bool) (w : AccessCtx) : (s.setBad x y z w).usp = s.usp := rfl
@[simp] theorem State.setBad_ssp (x : Word) (y : Dir) (z : Bool) (w : AccessCtx) : (s.setBad x y z w).ssp = s.ssp := rfl
@[simp] theorem State.setBad_pc (x : Word) (y : Dir) (z : Bool) (w : AccessCtx) : (s.setBad x y z w).pc = s.pc := rfl
@[simp] theorem State.setBad_t (x : Word) (y : Dir) (z : Bool) (w : AccessCtx) : (s.setBad x y z w).t = s.t := rfl
@[simp] theorem State.setBad_sup (x : Word) (y : Dir) (z : Bool) (w : AccessCtx) : (s.setBad x y z w).sup = s.sup := rfl
@[simp] theorem State.setBad_imask (x : Word) (y : Dir) (z : Bool) (w : AccessCtx) : (s.setBad x y z w).imask = s.imask := rfl
@[simp] theorem State.setBad_ccr (x : Word) (y : Dir) (z : Bool) (w : AccessCtx) : (s.setBad x y z w).ccr = s.ccr := rfl
@[simp] theorem State.setBad_pendVec (x : Word) (y : Dir) (z : Bool) (w : AccessCtx) : (s.setBad x y z w).pendVec = s.pendVec := rfl
@[simp] theorem State.setBad_ipl (x : Word) (y : Dir) (z : Bool) (w : AccessCtx) : (s.setBad x y z w).ipl = s.ipl := rfl
@[simp] theorem State.setBad_tracePend (x : Word) (y : Dir) (z : Bool) (w : AccessCtx) : (s.setBad x y z w).tracePend = s.tracePend := rfl
@[simp] theorem State.setBad_badAddr (x : Word) (y : Dir) (z : Bool) (w : AccessCtx) : (s.setBad x y z w).badAddr = x := rfl
@[simp] theorem State.setBad_badDir (x : Word) (y : Dir) (z : Bool) (w : AccessCtx) : (s.setBad x y z w).badDir = y := rfl
@[simp] theorem State.setBad_badS (x : Word) (y : Dir) (z : Bool) (w : AccessCtx) : (s.setBad x y z w).badS = z := rfl
@[simp] theorem State.setBad_badCtx (x : Word) (y : Dir) (z : Bool) (w : AccessCtx) : (s.setBad x y z w).badCtx = w := rfl
@[simp] theorem State.setBad_budget (x : Word) (y : Dir) (z : Bool) (w : AccessCtx) : (s.setBad x y z w).budget = s.budget := rfl
@[simp] theorem State.setBad_budgetSaved (x : Word) (y : Dir) (z : Bool) (w : AccessCtx) : (s.setBad x y z w).budgetSaved = s.budgetSaved := rfl
@[simp] theorem State.setBad_attention (x : Word) (y : Dir) (z : Bool) (w : AccessCtx) : (s.setBad x y z w).attention = s.attention := rfl
@[simp] theorem State.setBad_halted (x : Word) (y : Dir) (z : Bool) (w : AccessCtx) : (s.setBad x y z w).halted = s.halted := rfl
@[simp] theorem State.setBad_ir (x : Word) (y : Dir) (z : Bool) (w : AccessCtx) : (s.setBad x y z w).ir = s.ir := rfl
@[simp] theorem State.setBad_mem (x : Word) (y : Dir) (z : Bool) (w : AccessCtx) : (s.setBad x y z w).mem = s.mem := rfl
@[simp] theorem State.setBad_devLog (x : Word) (y : Dir) (z : Bool) (w : AccessCtx) : (s.setBad x y z w).devLog = s.devLog := rfl
@[simp] theorem State.setBad_drawn (x : Word) (y : Dir) (z : Bool) (w : AccessCtx) : (s.setBad x y z w).drawn = s.drawn := rfl
@[simp] theorem State.setBad_config (x : Word) (y : Dir) (z : Bool) (w : AccessCtx) : (s.setBad x y z w).config = s.config := rfl
@[simp] theorem State.setBad_dreg (x : Word) (y : Dir) (z : Bool) (w : AccessCtx) (k : Fin 8) : (s.setBad x y z w).dreg k = s.dreg k := rfl
@[simp] theorem State.setBad_areg (x : Word) (y : Dir) (z : Bool) (w : AccessCtx) (k : Fin 8) : (s.setBad x y z w).areg k = s.areg k := rfl

/-! ### setBudget -/

@[simp] theorem State.setBudget_d (x y : Nat) : (s.setBudget x y).d = s.d := rfl
@[simp] theorem State.setBudget_a (x y : Nat) : (s.setBudget x y).a = s.a := rfl
@[simp] theorem State.setBudget_usp (x y : Nat) : (s.setBudget x y).usp = s.usp := rfl
@[simp] theorem State.setBudget_ssp (x y : Nat) : (s.setBudget x y).ssp = s.ssp := rfl
@[simp] theorem State.setBudget_pc (x y : Nat) : (s.setBudget x y).pc = s.pc := rfl
@[simp] theorem State.setBudget_t (x y : Nat) : (s.setBudget x y).t = s.t := rfl
@[simp] theorem State.setBudget_sup (x y : Nat) : (s.setBudget x y).sup = s.sup := rfl
@[simp] theorem State.setBudget_imask (x y : Nat) : (s.setBudget x y).imask = s.imask := rfl
@[simp] theorem State.setBudget_ccr (x y : Nat) : (s.setBudget x y).ccr = s.ccr := rfl
@[simp] theorem State.setBudget_pendVec (x y : Nat) : (s.setBudget x y).pendVec = s.pendVec := rfl
@[simp] theorem State.setBudget_ipl (x y : Nat) : (s.setBudget x y).ipl = s.ipl := rfl
@[simp] theorem State.setBudget_tracePend (x y : Nat) : (s.setBudget x y).tracePend = s.tracePend := rfl
@[simp] theorem State.setBudget_badAddr (x y : Nat) : (s.setBudget x y).badAddr = s.badAddr := rfl
@[simp] theorem State.setBudget_badDir (x y : Nat) : (s.setBudget x y).badDir = s.badDir := rfl
@[simp] theorem State.setBudget_badS (x y : Nat) : (s.setBudget x y).badS = s.badS := rfl
@[simp] theorem State.setBudget_badCtx (x y : Nat) : (s.setBudget x y).badCtx = s.badCtx := rfl
@[simp] theorem State.setBudget_budget (x y : Nat) : (s.setBudget x y).budget = x := rfl
@[simp] theorem State.setBudget_budgetSaved (x y : Nat) : (s.setBudget x y).budgetSaved = y := rfl
@[simp] theorem State.setBudget_attention (x y : Nat) : (s.setBudget x y).attention = s.attention := rfl
@[simp] theorem State.setBudget_halted (x y : Nat) : (s.setBudget x y).halted = s.halted := rfl
@[simp] theorem State.setBudget_ir (x y : Nat) : (s.setBudget x y).ir = s.ir := rfl
@[simp] theorem State.setBudget_mem (x y : Nat) : (s.setBudget x y).mem = s.mem := rfl
@[simp] theorem State.setBudget_devLog (x y : Nat) : (s.setBudget x y).devLog = s.devLog := rfl
@[simp] theorem State.setBudget_drawn (x y : Nat) : (s.setBudget x y).drawn = s.drawn := rfl
@[simp] theorem State.setBudget_config (x y : Nat) : (s.setBudget x y).config = s.config := rfl
@[simp] theorem State.setBudget_dreg (x y : Nat) (k : Fin 8) : (s.setBudget x y).dreg k = s.dreg k := rfl
@[simp] theorem State.setBudget_areg (x y : Nat) (k : Fin 8) : (s.setBudget x y).areg k = s.areg k := rfl

/-! ### setAttention -/

@[simp] theorem State.setAttention_d (v : Bool) : (s.setAttention v).d = s.d := rfl
@[simp] theorem State.setAttention_a (v : Bool) : (s.setAttention v).a = s.a := rfl
@[simp] theorem State.setAttention_usp (v : Bool) : (s.setAttention v).usp = s.usp := rfl
@[simp] theorem State.setAttention_ssp (v : Bool) : (s.setAttention v).ssp = s.ssp := rfl
@[simp] theorem State.setAttention_pc (v : Bool) : (s.setAttention v).pc = s.pc := rfl
@[simp] theorem State.setAttention_t (v : Bool) : (s.setAttention v).t = s.t := rfl
@[simp] theorem State.setAttention_sup (v : Bool) : (s.setAttention v).sup = s.sup := rfl
@[simp] theorem State.setAttention_imask (v : Bool) : (s.setAttention v).imask = s.imask := rfl
@[simp] theorem State.setAttention_ccr (v : Bool) : (s.setAttention v).ccr = s.ccr := rfl
@[simp] theorem State.setAttention_pendVec (v : Bool) : (s.setAttention v).pendVec = s.pendVec := rfl
@[simp] theorem State.setAttention_ipl (v : Bool) : (s.setAttention v).ipl = s.ipl := rfl
@[simp] theorem State.setAttention_tracePend (v : Bool) : (s.setAttention v).tracePend = s.tracePend := rfl
@[simp] theorem State.setAttention_badAddr (v : Bool) : (s.setAttention v).badAddr = s.badAddr := rfl
@[simp] theorem State.setAttention_badDir (v : Bool) : (s.setAttention v).badDir = s.badDir := rfl
@[simp] theorem State.setAttention_badS (v : Bool) : (s.setAttention v).badS = s.badS := rfl
@[simp] theorem State.setAttention_badCtx (v : Bool) : (s.setAttention v).badCtx = s.badCtx := rfl
@[simp] theorem State.setAttention_budget (v : Bool) : (s.setAttention v).budget = s.budget := rfl
@[simp] theorem State.setAttention_budgetSaved (v : Bool) : (s.setAttention v).budgetSaved = s.budgetSaved := rfl
@[simp] theorem State.setAttention_attention (v : Bool) : (s.setAttention v).attention = v := rfl
@[simp] theorem State.setAttention_halted (v : Bool) : (s.setAttention v).halted = s.halted := rfl
@[simp] theorem State.setAttention_ir (v : Bool) : (s.setAttention v).ir = s.ir := rfl
@[simp] theorem State.setAttention_mem (v : Bool) : (s.setAttention v).mem = s.mem := rfl
@[simp] theorem State.setAttention_devLog (v : Bool) : (s.setAttention v).devLog = s.devLog := rfl
@[simp] theorem State.setAttention_drawn (v : Bool) : (s.setAttention v).drawn = s.drawn := rfl
@[simp] theorem State.setAttention_config (v : Bool) : (s.setAttention v).config = s.config := rfl
@[simp] theorem State.setAttention_dreg (v : Bool) (k : Fin 8) : (s.setAttention v).dreg k = s.dreg k := rfl
@[simp] theorem State.setAttention_areg (v : Bool) (k : Fin 8) : (s.setAttention v).areg k = s.areg k := rfl

/-! ### setHalted -/

@[simp] theorem State.setHalted_d (v : Bool) : (s.setHalted v).d = s.d := rfl
@[simp] theorem State.setHalted_a (v : Bool) : (s.setHalted v).a = s.a := rfl
@[simp] theorem State.setHalted_usp (v : Bool) : (s.setHalted v).usp = s.usp := rfl
@[simp] theorem State.setHalted_ssp (v : Bool) : (s.setHalted v).ssp = s.ssp := rfl
@[simp] theorem State.setHalted_pc (v : Bool) : (s.setHalted v).pc = s.pc := rfl
@[simp] theorem State.setHalted_t (v : Bool) : (s.setHalted v).t = s.t := rfl
@[simp] theorem State.setHalted_sup (v : Bool) : (s.setHalted v).sup = s.sup := rfl
@[simp] theorem State.setHalted_imask (v : Bool) : (s.setHalted v).imask = s.imask := rfl
@[simp] theorem State.setHalted_ccr (v : Bool) : (s.setHalted v).ccr = s.ccr := rfl
@[simp] theorem State.setHalted_pendVec (v : Bool) : (s.setHalted v).pendVec = s.pendVec := rfl
@[simp] theorem State.setHalted_ipl (v : Bool) : (s.setHalted v).ipl = s.ipl := rfl
@[simp] theorem State.setHalted_tracePend (v : Bool) : (s.setHalted v).tracePend = s.tracePend := rfl
@[simp] theorem State.setHalted_badAddr (v : Bool) : (s.setHalted v).badAddr = s.badAddr := rfl
@[simp] theorem State.setHalted_badDir (v : Bool) : (s.setHalted v).badDir = s.badDir := rfl
@[simp] theorem State.setHalted_badS (v : Bool) : (s.setHalted v).badS = s.badS := rfl
@[simp] theorem State.setHalted_badCtx (v : Bool) : (s.setHalted v).badCtx = s.badCtx := rfl
@[simp] theorem State.setHalted_budget (v : Bool) : (s.setHalted v).budget = s.budget := rfl
@[simp] theorem State.setHalted_budgetSaved (v : Bool) : (s.setHalted v).budgetSaved = s.budgetSaved := rfl
@[simp] theorem State.setHalted_attention (v : Bool) : (s.setHalted v).attention = s.attention := rfl
@[simp] theorem State.setHalted_halted (v : Bool) : (s.setHalted v).halted = v := rfl
@[simp] theorem State.setHalted_ir (v : Bool) : (s.setHalted v).ir = s.ir := rfl
@[simp] theorem State.setHalted_mem (v : Bool) : (s.setHalted v).mem = s.mem := rfl
@[simp] theorem State.setHalted_devLog (v : Bool) : (s.setHalted v).devLog = s.devLog := rfl
@[simp] theorem State.setHalted_drawn (v : Bool) : (s.setHalted v).drawn = s.drawn := rfl
@[simp] theorem State.setHalted_config (v : Bool) : (s.setHalted v).config = s.config := rfl
@[simp] theorem State.setHalted_dreg (v : Bool) (k : Fin 8) : (s.setHalted v).dreg k = s.dreg k := rfl
@[simp] theorem State.setHalted_areg (v : Bool) (k : Fin 8) : (s.setHalted v).areg k = s.areg k := rfl

/-! ### setIr -/

@[simp] theorem State.setIr_d (v : Half) : (s.setIr v).d = s.d := rfl
@[simp] theorem State.setIr_a (v : Half) : (s.setIr v).a = s.a := rfl
@[simp] theorem State.setIr_usp (v : Half) : (s.setIr v).usp = s.usp := rfl
@[simp] theorem State.setIr_ssp (v : Half) : (s.setIr v).ssp = s.ssp := rfl
@[simp] theorem State.setIr_pc (v : Half) : (s.setIr v).pc = s.pc := rfl
@[simp] theorem State.setIr_t (v : Half) : (s.setIr v).t = s.t := rfl
@[simp] theorem State.setIr_sup (v : Half) : (s.setIr v).sup = s.sup := rfl
@[simp] theorem State.setIr_imask (v : Half) : (s.setIr v).imask = s.imask := rfl
@[simp] theorem State.setIr_ccr (v : Half) : (s.setIr v).ccr = s.ccr := rfl
@[simp] theorem State.setIr_pendVec (v : Half) : (s.setIr v).pendVec = s.pendVec := rfl
@[simp] theorem State.setIr_ipl (v : Half) : (s.setIr v).ipl = s.ipl := rfl
@[simp] theorem State.setIr_tracePend (v : Half) : (s.setIr v).tracePend = s.tracePend := rfl
@[simp] theorem State.setIr_badAddr (v : Half) : (s.setIr v).badAddr = s.badAddr := rfl
@[simp] theorem State.setIr_badDir (v : Half) : (s.setIr v).badDir = s.badDir := rfl
@[simp] theorem State.setIr_badS (v : Half) : (s.setIr v).badS = s.badS := rfl
@[simp] theorem State.setIr_badCtx (v : Half) : (s.setIr v).badCtx = s.badCtx := rfl
@[simp] theorem State.setIr_budget (v : Half) : (s.setIr v).budget = s.budget := rfl
@[simp] theorem State.setIr_budgetSaved (v : Half) : (s.setIr v).budgetSaved = s.budgetSaved := rfl
@[simp] theorem State.setIr_attention (v : Half) : (s.setIr v).attention = s.attention := rfl
@[simp] theorem State.setIr_halted (v : Half) : (s.setIr v).halted = s.halted := rfl
@[simp] theorem State.setIr_ir (v : Half) : (s.setIr v).ir = v := rfl
@[simp] theorem State.setIr_mem (v : Half) : (s.setIr v).mem = s.mem := rfl
@[simp] theorem State.setIr_devLog (v : Half) : (s.setIr v).devLog = s.devLog := rfl
@[simp] theorem State.setIr_drawn (v : Half) : (s.setIr v).drawn = s.drawn := rfl
@[simp] theorem State.setIr_config (v : Half) : (s.setIr v).config = s.config := rfl
@[simp] theorem State.setIr_dreg (v : Half) (k : Fin 8) : (s.setIr v).dreg k = s.dreg k := rfl
@[simp] theorem State.setIr_areg (v : Half) (k : Fin 8) : (s.setIr v).areg k = s.areg k := rfl

/-! ### setMem -/

@[simp] theorem State.setMem_d (v : List Host.Cell) : (s.setMem v).d = s.d := rfl
@[simp] theorem State.setMem_a (v : List Host.Cell) : (s.setMem v).a = s.a := rfl
@[simp] theorem State.setMem_usp (v : List Host.Cell) : (s.setMem v).usp = s.usp := rfl
@[simp] theorem State.setMem_ssp (v : List Host.Cell) : (s.setMem v).ssp = s.ssp := rfl
@[simp] theorem State.setMem_pc (v : List Host.Cell) : (s.setMem v).pc = s.pc := rfl
@[simp] theorem State.setMem_t (v : List Host.Cell) : (s.setMem v).t = s.t := rfl
@[simp] theorem State.setMem_sup (v : List Host.Cell) : (s.setMem v).sup = s.sup := rfl
@[simp] theorem State.setMem_imask (v : List Host.Cell) : (s.setMem v).imask = s.imask := rfl
@[simp] theorem State.setMem_ccr (v : List Host.Cell) : (s.setMem v).ccr = s.ccr := rfl
@[simp] theorem State.setMem_pendVec (v : List Host.Cell) : (s.setMem v).pendVec = s.pendVec := rfl
@[simp] theorem State.setMem_ipl (v : List Host.Cell) : (s.setMem v).ipl = s.ipl := rfl
@[simp] theorem State.setMem_tracePend (v : List Host.Cell) : (s.setMem v).tracePend = s.tracePend := rfl
@[simp] theorem State.setMem_badAddr (v : List Host.Cell) : (s.setMem v).badAddr = s.badAddr := rfl
@[simp] theorem State.setMem_badDir (v : List Host.Cell) : (s.setMem v).badDir = s.badDir := rfl
@[simp] theorem State.setMem_badS (v : List Host.Cell) : (s.setMem v).badS = s.badS := rfl
@[simp] theorem State.setMem_badCtx (v : List Host.Cell) : (s.setMem v).badCtx = s.badCtx := rfl
@[simp] theorem State.setMem_budget (v : List Host.Cell) : (s.setMem v).budget = s.budget := rfl
@[simp] theorem State.setMem_budgetSaved (v : List Host.Cell) : (s.setMem v).budgetSaved = s.budgetSaved := rfl
@[simp] theorem State.setMem_attention (v : List Host.Cell) : (s.setMem v).attention = s.attention := rfl
@[simp] theorem State.setMem_halted (v : List Host.Cell) : (s.setMem v).halted = s.halted := rfl
@[simp] theorem State.setMem_ir (v : List Host.Cell) : (s.setMem v).ir = s.ir := rfl
@[simp] theorem State.setMem_mem (v : List Host.Cell) : (s.setMem v).mem = v := rfl
@[simp] theorem State.setMem_devLog (v : List Host.Cell) : (s.setMem v).devLog = s.devLog := rfl
@[simp] theorem State.setMem_drawn (v : List Host.Cell) : (s.setMem v).drawn = s.drawn := rfl
@[simp] theorem State.setMem_config (v : List Host.Cell) : (s.setMem v).config = s.config := rfl
@[simp] theorem State.setMem_dreg (v : List Host.Cell) (k : Fin 8) : (s.setMem v).dreg k = s.dreg k := rfl
@[simp] theorem State.setMem_areg (v : List Host.Cell) (k : Fin 8) : (s.setMem v).areg k = s.areg k := rfl

/-! ### setDevLog -/

@[simp] theorem State.setDevLog_d (v : List DevEvent) : (s.setDevLog v).d = s.d := rfl
@[simp] theorem State.setDevLog_a (v : List DevEvent) : (s.setDevLog v).a = s.a := rfl
@[simp] theorem State.setDevLog_usp (v : List DevEvent) : (s.setDevLog v).usp = s.usp := rfl
@[simp] theorem State.setDevLog_ssp (v : List DevEvent) : (s.setDevLog v).ssp = s.ssp := rfl
@[simp] theorem State.setDevLog_pc (v : List DevEvent) : (s.setDevLog v).pc = s.pc := rfl
@[simp] theorem State.setDevLog_t (v : List DevEvent) : (s.setDevLog v).t = s.t := rfl
@[simp] theorem State.setDevLog_sup (v : List DevEvent) : (s.setDevLog v).sup = s.sup := rfl
@[simp] theorem State.setDevLog_imask (v : List DevEvent) : (s.setDevLog v).imask = s.imask := rfl
@[simp] theorem State.setDevLog_ccr (v : List DevEvent) : (s.setDevLog v).ccr = s.ccr := rfl
@[simp] theorem State.setDevLog_pendVec (v : List DevEvent) : (s.setDevLog v).pendVec = s.pendVec := rfl
@[simp] theorem State.setDevLog_ipl (v : List DevEvent) : (s.setDevLog v).ipl = s.ipl := rfl
@[simp] theorem State.setDevLog_tracePend (v : List DevEvent) : (s.setDevLog v).tracePend = s.tracePend := rfl
@[simp] theorem State.setDevLog_badAddr (v : List DevEvent) : (s.setDevLog v).badAddr = s.badAddr := rfl
@[simp] theorem State.setDevLog_badDir (v : List DevEvent) : (s.setDevLog v).badDir = s.badDir := rfl
@[simp] theorem State.setDevLog_badS (v : List DevEvent) : (s.setDevLog v).badS = s.badS := rfl
@[simp] theorem State.setDevLog_badCtx (v : List DevEvent) : (s.setDevLog v).badCtx = s.badCtx := rfl
@[simp] theorem State.setDevLog_budget (v : List DevEvent) : (s.setDevLog v).budget = s.budget := rfl
@[simp] theorem State.setDevLog_budgetSaved (v : List DevEvent) : (s.setDevLog v).budgetSaved = s.budgetSaved := rfl
@[simp] theorem State.setDevLog_attention (v : List DevEvent) : (s.setDevLog v).attention = s.attention := rfl
@[simp] theorem State.setDevLog_halted (v : List DevEvent) : (s.setDevLog v).halted = s.halted := rfl
@[simp] theorem State.setDevLog_ir (v : List DevEvent) : (s.setDevLog v).ir = s.ir := rfl
@[simp] theorem State.setDevLog_mem (v : List DevEvent) : (s.setDevLog v).mem = s.mem := rfl
@[simp] theorem State.setDevLog_devLog (v : List DevEvent) : (s.setDevLog v).devLog = v := rfl
@[simp] theorem State.setDevLog_drawn (v : List DevEvent) : (s.setDevLog v).drawn = s.drawn := rfl
@[simp] theorem State.setDevLog_config (v : List DevEvent) : (s.setDevLog v).config = s.config := rfl
@[simp] theorem State.setDevLog_dreg (v : List DevEvent) (k : Fin 8) : (s.setDevLog v).dreg k = s.dreg k := rfl
@[simp] theorem State.setDevLog_areg (v : List DevEvent) (k : Fin 8) : (s.setDevLog v).areg k = s.areg k := rfl

/-! ### setDrawn -/

@[simp] theorem State.setDrawn_d (v : Nat) : (s.setDrawn v).d = s.d := rfl
@[simp] theorem State.setDrawn_a (v : Nat) : (s.setDrawn v).a = s.a := rfl
@[simp] theorem State.setDrawn_usp (v : Nat) : (s.setDrawn v).usp = s.usp := rfl
@[simp] theorem State.setDrawn_ssp (v : Nat) : (s.setDrawn v).ssp = s.ssp := rfl
@[simp] theorem State.setDrawn_pc (v : Nat) : (s.setDrawn v).pc = s.pc := rfl
@[simp] theorem State.setDrawn_t (v : Nat) : (s.setDrawn v).t = s.t := rfl
@[simp] theorem State.setDrawn_sup (v : Nat) : (s.setDrawn v).sup = s.sup := rfl
@[simp] theorem State.setDrawn_imask (v : Nat) : (s.setDrawn v).imask = s.imask := rfl
@[simp] theorem State.setDrawn_ccr (v : Nat) : (s.setDrawn v).ccr = s.ccr := rfl
@[simp] theorem State.setDrawn_pendVec (v : Nat) : (s.setDrawn v).pendVec = s.pendVec := rfl
@[simp] theorem State.setDrawn_ipl (v : Nat) : (s.setDrawn v).ipl = s.ipl := rfl
@[simp] theorem State.setDrawn_tracePend (v : Nat) : (s.setDrawn v).tracePend = s.tracePend := rfl
@[simp] theorem State.setDrawn_badAddr (v : Nat) : (s.setDrawn v).badAddr = s.badAddr := rfl
@[simp] theorem State.setDrawn_badDir (v : Nat) : (s.setDrawn v).badDir = s.badDir := rfl
@[simp] theorem State.setDrawn_badS (v : Nat) : (s.setDrawn v).badS = s.badS := rfl
@[simp] theorem State.setDrawn_badCtx (v : Nat) : (s.setDrawn v).badCtx = s.badCtx := rfl
@[simp] theorem State.setDrawn_budget (v : Nat) : (s.setDrawn v).budget = s.budget := rfl
@[simp] theorem State.setDrawn_budgetSaved (v : Nat) : (s.setDrawn v).budgetSaved = s.budgetSaved := rfl
@[simp] theorem State.setDrawn_attention (v : Nat) : (s.setDrawn v).attention = s.attention := rfl
@[simp] theorem State.setDrawn_halted (v : Nat) : (s.setDrawn v).halted = s.halted := rfl
@[simp] theorem State.setDrawn_ir (v : Nat) : (s.setDrawn v).ir = s.ir := rfl
@[simp] theorem State.setDrawn_mem (v : Nat) : (s.setDrawn v).mem = s.mem := rfl
@[simp] theorem State.setDrawn_devLog (v : Nat) : (s.setDrawn v).devLog = s.devLog := rfl
@[simp] theorem State.setDrawn_drawn (v : Nat) : (s.setDrawn v).drawn = v := rfl
@[simp] theorem State.setDrawn_config (v : Nat) : (s.setDrawn v).config = s.config := rfl
@[simp] theorem State.setDrawn_dreg (v : Nat) (k : Fin 8) : (s.setDrawn v).dreg k = s.dreg k := rfl
@[simp] theorem State.setDrawn_areg (v : Nat) (k : Fin 8) : (s.setDrawn v).areg k = s.areg k := rfl

/-! ### setConfig -/

@[simp] theorem State.setConfig_d (v : Config) : (s.setConfig v).d = s.d := rfl
@[simp] theorem State.setConfig_a (v : Config) : (s.setConfig v).a = s.a := rfl
@[simp] theorem State.setConfig_usp (v : Config) : (s.setConfig v).usp = s.usp := rfl
@[simp] theorem State.setConfig_ssp (v : Config) : (s.setConfig v).ssp = s.ssp := rfl
@[simp] theorem State.setConfig_pc (v : Config) : (s.setConfig v).pc = s.pc := rfl
@[simp] theorem State.setConfig_t (v : Config) : (s.setConfig v).t = s.t := rfl
@[simp] theorem State.setConfig_sup (v : Config) : (s.setConfig v).sup = s.sup := rfl
@[simp] theorem State.setConfig_imask (v : Config) : (s.setConfig v).imask = s.imask := rfl
@[simp] theorem State.setConfig_ccr (v : Config) : (s.setConfig v).ccr = s.ccr := rfl
@[simp] theorem State.setConfig_pendVec (v : Config) : (s.setConfig v).pendVec = s.pendVec := rfl
@[simp] theorem State.setConfig_ipl (v : Config) : (s.setConfig v).ipl = s.ipl := rfl
@[simp] theorem State.setConfig_tracePend (v : Config) : (s.setConfig v).tracePend = s.tracePend := rfl
@[simp] theorem State.setConfig_badAddr (v : Config) : (s.setConfig v).badAddr = s.badAddr := rfl
@[simp] theorem State.setConfig_badDir (v : Config) : (s.setConfig v).badDir = s.badDir := rfl
@[simp] theorem State.setConfig_badS (v : Config) : (s.setConfig v).badS = s.badS := rfl
@[simp] theorem State.setConfig_badCtx (v : Config) : (s.setConfig v).badCtx = s.badCtx := rfl
@[simp] theorem State.setConfig_budget (v : Config) : (s.setConfig v).budget = s.budget := rfl
@[simp] theorem State.setConfig_budgetSaved (v : Config) : (s.setConfig v).budgetSaved = s.budgetSaved := rfl
@[simp] theorem State.setConfig_attention (v : Config) : (s.setConfig v).attention = s.attention := rfl
@[simp] theorem State.setConfig_halted (v : Config) : (s.setConfig v).halted = s.halted := rfl
@[simp] theorem State.setConfig_ir (v : Config) : (s.setConfig v).ir = s.ir := rfl
@[simp] theorem State.setConfig_mem (v : Config) : (s.setConfig v).mem = s.mem := rfl
@[simp] theorem State.setConfig_devLog (v : Config) : (s.setConfig v).devLog = s.devLog := rfl
@[simp] theorem State.setConfig_drawn (v : Config) : (s.setConfig v).drawn = s.drawn := rfl
@[simp] theorem State.setConfig_config (v : Config) : (s.setConfig v).config = v := rfl
@[simp] theorem State.setConfig_dreg (v : Config) (k : Fin 8) : (s.setConfig v).dreg k = s.dreg k := rfl
@[simp] theorem State.setConfig_areg (v : Config) (k : Fin 8) : (s.setConfig v).areg k = s.areg k := rfl

/-! ### Registers after a register write -/

theorem State.dreg_eq (m : Fin 8) : s.dreg m = s.d[m.val] := rfl

theorem State.areg_eq (m : Fin 8) : s.areg m = s.a[m.val] := rfl

theorem State.setD_dreg (n m : Fin 8) (v : Word) : (s.setD n v).dreg m = if m = n then v else s.dreg m := by
  simp [State.dreg_eq, State.setD, Vector.getElem_set, Fin.ext_iff, eq_comm]

theorem State.setA_areg (n m : Fin 8) (v : Word) : (s.setA n v).areg m = if m = n then v else s.areg m := by
  simp [State.areg_eq, State.setA, Vector.getElem_set, Fin.ext_iff, eq_comm]

@[simp] theorem State.setD_dreg_same (n : Fin 8) (v : Word) : (s.setD n v).dreg n = v := by simp [State.setD_dreg]

@[simp] theorem State.setA_areg_same (n : Fin 8) (v : Word) : (s.setA n v).areg n = v := by simp [State.setA_areg]

theorem State.setD_dreg_other {n m : Fin 8} (v : Word) (h : m ≠ n) : (s.setD n v).dreg m = s.dreg m := by
  simp [State.setD_dreg, h]

theorem State.setA_areg_other {n m : Fin 8} (v : Word) (h : m ≠ n) : (s.setA n v).areg m = s.areg m := by
  simp [State.setA_areg, h]

/-! ### Writing back what is there -/

theorem State.setT_same : s.setT s.t = s := rfl
theorem State.setSup_same : s.setSup s.sup = s := rfl
theorem State.setImask_same : s.setImask s.imask = s := rfl
theorem State.setCcr_same : s.setCcr s.ccr = s := rfl
theorem State.setPc_same : s.setPc s.pc = s := rfl
theorem State.setMem_same : s.setMem s.mem = s := rfl
theorem State.setPc_setPc (v w : Word) : (s.setPc v).setPc w = s.setPc w := rfl

theorem State.setA_setA (n : Fin 8) (v w : Word) : (s.setA n v).setA n w = s.setA n w := by
  simp [State.setA]

theorem State.setA_same (n : Fin 8) : s.setA n (s.areg n) = s := by
  simp [State.setA, State.areg_eq]

theorem State.setD_same (n : Fin 8) : s.setD n (s.dreg n) = s := by
  simp [State.setD, State.dreg_eq]

end Sys2Proof.Machine
end

