-- ==== Sys2Proof/Laws/Memory.lean ====
section
/-! SUPPORT. The laws of memory cells: a read after a write, the canonical form, and that equal bytes are equal memories. -/
namespace Sys2Proof.Machine

/-! ### One byte -/

theorem Memory.get_erase (m : List Host.Cell) (a b : Nat) :
    Memory.get (Memory.erase m a) b = if b = a then 0 else Memory.get m b := by
  induction m with
  | nil => simp [Memory.erase, Memory.get]
  | cons c m ih =>
    obtain ⟨k, v⟩ := c
    unfold Memory.erase at ih ⊢
    by_cases hk : k = a
    · subst hk
      by_cases hb : b = k
      · simp_all
      · simp_all [Memory.get, Ne.symm hb]
    · by_cases hb : k = b
      · subst hb; simp [hk, Memory.get]
      · simp_all [Memory.get]

theorem Memory.get_insert (m : List Host.Cell) (a : Nat) (v : Byte) (h : ∀ c ∈ m, c.1 ≠ a) (b : Nat) :
    Memory.get (Memory.insert m (a, v)) b = if b = a then v else Memory.get m b := by
  induction m with
  | nil => simp [Memory.insert, Memory.get, eq_comm]
  | cons c m ih =>
    obtain ⟨k, w⟩ := c
    have hk : k ≠ a := h (k, w) (by simp)
    have ih' := ih (fun c hc => h c (by simp [hc]))
    simp only [Memory.insert]
    split
    · simp [Memory.get, eq_comm]
    · by_cases hb : k = b
      · subst hb; simp [Memory.get, hk]
      · simp [Memory.get, hb, ih']

theorem Memory.erase_key (m : List Host.Cell) (a : Nat) : ∀ c ∈ Memory.erase m a, c.1 ≠ a := by
  intro c hc
  simp [Memory.erase] at hc
  exact hc.2

/-- A read after a write: the byte written at its address, the old byte at every other. -/
theorem Memory.get_put (m : List Host.Cell) (a : Nat) (v : Byte) (b : Nat) :
    Memory.get (Memory.put m a v) b = if b = a then v else Memory.get m b := by
  unfold Memory.put
  split
  · rename_i hv
    rw [Memory.get_erase, hv]
  · rw [Memory.get_insert _ _ _ (Memory.erase_key m a), Memory.get_erase]
    split <;> rfl

/-! ### The canonical form -/

theorem Memory.nil_wf : Memory.wf [] := ⟨List.Pairwise.nil, by simp⟩

theorem Memory.erase_wf {m : List Host.Cell} (a : Nat) (h : Memory.wf m) : Memory.wf (Memory.erase m a) :=
  ⟨h.1.filter _, fun c hc => h.2 c (List.mem_filter.mp hc).1⟩

theorem Memory.mem_insert {m : List Host.Cell} {c x : Host.Cell} :
    x ∈ Memory.insert m c ↔ x = c ∨ x ∈ m := by
  induction m with
  | nil => simp [Memory.insert]
  | cons y m ih =>
    simp only [Memory.insert]
    split
    · simp
    · simp [ih]; tauto

theorem Memory.insert_wf {m : List Host.Cell} {a : Nat} {v : Byte} (h : Memory.wf m) (hk : ∀ c ∈ m, c.1 ≠ a)
    (hv : v ≠ 0) : Memory.wf (Memory.insert m (a, v)) := by
  refine ⟨?_, fun c hc => ?_⟩
  · obtain ⟨hp, -⟩ := h
    induction m with
    | nil => simp [Memory.insert]
    | cons y m ih =>
      obtain ⟨hy, hm⟩ := List.pairwise_cons.mp hp
      simp only [Memory.insert]
      split
      · rename_i hlt
        refine List.pairwise_cons.mpr ⟨fun z hz => ?_, hp⟩
        rcases List.mem_cons.mp hz with rfl | hz
        · exact hlt
        · exact lt_trans hlt (hy z hz)
      · rename_i hlt
        have hya : y.1 ≠ a := hk y (by simp)
        refine List.pairwise_cons.mpr ⟨fun z hz => ?_, ih (fun c hc => hk c (by simp [hc])) hm⟩
        rcases Memory.mem_insert.mp hz with rfl | hz
        · have : ¬ a < y.1 := hlt
          show y.1 < a
          omega
        · exact hy z hz
  · rcases Memory.mem_insert.mp hc with rfl | hc
    · exact hv
    · exact h.2 c hc

theorem Memory.put_wf {m : List Host.Cell} (a : Nat) (v : Byte) (h : Memory.wf m) : Memory.wf (Memory.put m a v) := by
  unfold Memory.put
  split
  · exact Memory.erase_wf a h
  · rename_i hv
    exact Memory.insert_wf (Memory.erase_wf a h) (Memory.erase_key m a) hv

theorem Memory.store_wf {m : List Host.Cell} (sz : Size) (a : Nat) (v : Word) (h : Memory.wf m) :
    Memory.wf (Memory.store m sz a v) := by
  cases sz <;> simp only [Memory.store]
  · exact Memory.put_wf _ _ h
  · exact Memory.put_wf _ _ (Memory.put_wf _ _ h)
  · exact Memory.put_wf _ _ (Memory.put_wf _ _ (Memory.put_wf _ _ (Memory.put_wf _ _ h)))

/-- The listed addresses after a store: the old ones and the bytes stored to. -/
theorem Memory.put_keys {m : List Host.Cell} {a : Nat} {v : Byte} {c : Host.Cell} (h : c ∈ Memory.put m a v) :
    c.1 = a ∨ c ∈ m := by
  unfold Memory.put at h
  split at h
  · exact .inr (List.mem_filter.mp h).1
  · rcases Memory.mem_insert.mp h with rfl | h
    · exact .inl rfl
    · exact .inr (List.mem_filter.mp h).1

theorem Memory.store_keys {m : List Host.Cell} {sz : Size} {a : Nat} {v : Word} {c : Host.Cell}
    (h : c ∈ Memory.store m sz a v) : (∃ k < sizeBytes sz, c.1 = a + k) ∨ c ∈ m := by
  cases sz <;> simp only [Memory.store] at h <;> simp only [sizeBytes]
  · rcases Memory.put_keys h with h | h
    · exact .inl ⟨0, by decide, h⟩
    · exact .inr h
  · rcases Memory.put_keys h with h | h
    · exact .inl ⟨1, by decide, h⟩
    rcases Memory.put_keys h with h | h
    · exact .inl ⟨0, by decide, h⟩
    · exact .inr h
  · rcases Memory.put_keys h with h | h
    · exact .inl ⟨3, by decide, h⟩
    rcases Memory.put_keys h with h | h
    · exact .inl ⟨2, by decide, h⟩
    rcases Memory.put_keys h with h | h
    · exact .inl ⟨1, by decide, h⟩
    rcases Memory.put_keys h with h | h
    · exact .inl ⟨0, by decide, h⟩
    · exact .inr h

theorem Memory.get_cons_self (k : Nat) (v : Byte) (m : List Host.Cell) : Memory.get ((k, v) :: m) k = v := by
  simp [Memory.get]

theorem Memory.get_eq_zero {m : List Host.Cell} {a : Nat} (h : ∀ c ∈ m, c.1 ≠ a) : Memory.get m a = 0 := by
  induction m with
  | nil => rfl
  | cons c m ih =>
    obtain ⟨k, v⟩ := c
    have hk : k ≠ a := h (k, v) (by simp)
    simp [Memory.get, hk, ih (fun c hc => h c (by simp [hc]))]

/-- Two memories in canonical form that hold the same bytes are equal. -/
theorem Memory.eq_of_get {m m' : List Host.Cell} (h : Memory.wf m) (h' : Memory.wf m')
    (heq : ∀ a, Memory.get m a = Memory.get m' a) : m = m' := by
  induction m generalizing m' with
  | nil =>
    cases m' with
    | nil => rfl
    | cons c m' =>
      obtain ⟨k, v⟩ := c
      have := heq k
      rw [Memory.get_cons_self] at this
      exact absurd this.symm (h'.2 (k, v) (by simp))
  | cons c m ih =>
    obtain ⟨k, v⟩ := c
    cases m' with
    | nil =>
      have := heq k
      rw [Memory.get_cons_self] at this
      exact absurd this (h.2 (k, v) (by simp))
    | cons c' m' =>
      obtain ⟨k', v'⟩ := c'
      obtain ⟨hp, hm⟩ := List.pairwise_cons.mp h.1
      obtain ⟨hp', hm'⟩ := List.pairwise_cons.mp h'.1
      have hv := h.2 (k, v) (by simp)
      have hv' := h'.2 (k', v') (by simp)
      have hlt : ∀ {x : Nat} {l : List Host.Cell}, (∀ c ∈ l, x < c.1) → Memory.get l x = 0 := fun hl =>
        Memory.get_eq_zero (fun c hc => (hl c hc).ne')
      have hkk : k = k' := by
        rcases Nat.lt_trichotomy k k' with hlt' | heq' | hlt'
        · have := heq k
          rw [Memory.get_cons_self, Memory.get, if_neg hlt'.ne', hlt (fun c hc => lt_trans hlt' (hp' c hc))] at this
          exact absurd this hv
        · exact heq'
        · have := heq k'
          rw [Memory.get_cons_self, Memory.get, if_neg hlt'.ne', hlt (fun c hc => lt_trans hlt' (hp c hc))] at this
          exact absurd this.symm hv'
      subst hkk
      have hvv : v = v' := by simpa [Memory.get_cons_self] using heq k
      subst hvv
      congr 1
      refine ih ⟨hm, fun c hc => h.2 c (by simp [hc])⟩ ⟨hm', fun c hc => h'.2 c (by simp [hc])⟩ (fun a => ?_)
      by_cases ha : k = a
      · subst ha
        rw [hlt hp, hlt hp']
      · simpa [Memory.get, ha] using heq a

/-! ### Wider accesses -/

/-- After a store the k-th byte stored reads as byte k of the value. -/
theorem Memory.get_store_inside (m : List Host.Cell) (sz : Size) (a : Nat) (v : Word) (k : Nat)
    (hk : k < sizeBytes sz) : Memory.get (Memory.store m sz a v) (a + k) = byteOf sz v k := by
  cases sz <;> simp only [sizeBytes] at hk <;> interval_cases k <;> simp [Memory.store, Memory.get_put]

/-- A store leaves every byte outside it. -/
theorem Memory.get_store_outside (m : List Host.Cell) (sz : Size) (a : Nat) (v : Word) (b : Nat)
    (hb : b < a ∨ a + sizeBytes sz ≤ b) : Memory.get (Memory.store m sz a v) b = Memory.get m b := by
  cases sz <;> simp only [sizeBytes] at hb <;> simp only [Memory.store, Memory.get_put] <;>
    repeat' rw [if_neg (by omega)]

/-- A load of what was stored gives the value, truncated to the size. -/
theorem Memory.load_store (m : List Host.Cell) (sz : Size) (a : Nat) (v : Word) :
    Memory.load (Memory.store m sz a v) sz a = trunc sz v := by
  have hk := Memory.get_store_inside m sz a v
  cases sz <;> simp only [sizeBytes] at hk <;> simp only [Memory.load, trunc]
  · rw [show Memory.get _ a = _ from hk 0 (by decide)]
    ext i hi
    simp [byteOf, sizeBytes]
  · rw [show Memory.get _ a = _ from hk 0 (by decide), hk 1 (by decide)]
    ext i hi
    simp [halfOfBytes, byteOf, sizeBytes]
    grind
  · rw [show Memory.get _ a = _ from hk 0 (by decide), hk 1 (by decide), hk 2 (by decide), hk 3 (by decide)]
    ext i hi
    simp [longOfBytes, byteOf, sizeBytes]
    grind

/-- A load sees only the bytes it covers. -/
theorem Memory.load_congr {m m' : List Host.Cell} {sz : Size} {a : Nat}
    (h : ∀ k < sizeBytes sz, Memory.get m (a + k) = Memory.get m' (a + k)) : Memory.load m sz a = Memory.load m' sz a := by
  cases sz <;> simp only [sizeBytes] at h <;> simp only [Memory.load]
  · rw [show a = a + 0 from rfl, h 0 (by decide)]
  · rw [h 1 (by decide)]
    have := h 0 (by decide)
    simp only [Nat.add_zero] at this
    rw [this]
  · rw [h 1 (by decide), h 2 (by decide), h 3 (by decide)]
    have := h 0 (by decide)
    simp only [Nat.add_zero] at this
    rw [this]

/-- A load is not changed by a store to other bytes. -/
theorem Memory.load_store_outside (m : List Host.Cell) (sz sz' : Size) (a b : Nat) (v : Word)
    (h : b + sizeBytes sz' ≤ a ∨ a + sizeBytes sz ≤ b) :
    Memory.load (Memory.store m sz a v) sz' b = Memory.load m sz' b :=
  Memory.load_congr (fun k hk => Memory.get_store_outside m sz a v (b + k) (by omega))

/-- Storing back the value loaded changes no byte. -/
theorem Memory.get_store_load (m : List Host.Cell) (sz : Size) (a b : Nat) :
    Memory.get (Memory.store m sz a (Memory.load m sz a)) b = Memory.get m b := by
  by_cases hb : b < a ∨ a + sizeBytes sz ≤ b
  · exact Memory.get_store_outside m sz a _ b hb
  · obtain ⟨k, hk, rfl⟩ : ∃ k < sizeBytes sz, b = a + k := ⟨b - a, by omega, by omega⟩
    rw [Memory.get_store_inside m sz a _ k hk]
    cases sz <;> simp only [sizeBytes] at hk <;> interval_cases k <;>
      simp only [byteOf, Memory.load, sizeBytes, longOfBytes, halfOfBytes, Nat.add_zero] <;> ext i hi <;>
      simp <;> grind

end Sys2Proof.Machine
end

