-- ==== Sys2Proof/Laws/Ops.lean ====
section
/-! SUPPORT. Running sequences of operations: how a bind runs, and one lemma per shared operation that says what it
answers when it goes through, and what it answers when it does not. -/
namespace Sys2Proof.Machine

/-! ### Sequences -/

theorem M.bind_ok {α β : Type} {x : M α} {f : α → M β} {s t : State} {a : α} (h : x s = .ok a t) :
    (x >>= f) s = f a t := by
  show EStateM.bind x f s = _
  simp [EStateM.bind, h]

theorem M.bind_error {α β : Type} {x : M α} {f : α → M β} {s t : State} {e : Stop} (h : x s = .error e t) :
    (x >>= f) s = .error e t := by
  show EStateM.bind x f s = _
  simp [EStateM.bind, h]

@[simp] theorem M.get_bind {α : Type} (f : State → M α) (s : State) : ((get : M State) >>= f) s = f s s := rfl

@[simp] theorem M.modify_bind {α : Type} (g : State → State) (f : Unit → M α) (s : State) :
    ((modify g : M Unit) >>= f) s = f () (g s) := rfl

@[simp] theorem M.pure_bind {α β : Type} (a : α) (f : α → M β) (s : State) : ((pure a : M α) >>= f) s = f a s := rfl

@[simp] theorem M.pure_apply {α : Type} (a : α) (s : State) : (pure a : M α) s = .ok a s := rfl

@[simp] theorem M.modify_apply (g : State → State) (s : State) : (modify g : M Unit) s = .ok () (g s) := rfl

theorem run_ok {m : M Unit} {s t : State} (h : m s = .ok () t) : run m s = .next t := by simp [run, h]

theorem run_raised {m : M Unit} {s t : State} (h : m s = .error .raised t) : run m s = .next t := by simp [run, h]

/-- A sequence that ends in a next state ended normally or by a raise. -/
theorem run_next {m : M Unit} {s t : State} (h : run m s = .next t) : m s = .ok () t ∨ m s = .error .raised t := by
  unfold run at h
  split at h <;> simp_all

theorem run_get_bind (f : State → M Unit) (s : State) : run ((get : M State) >>= f) s = run (f s) s := rfl

theorem run_modify_bind (g : State → State) (f : Unit → M Unit) (s : State) :
    run ((modify g : M Unit) >>= f) s = run (f ()) (g s) := rfl

theorem run_modify (g : State → State) (s : State) : run (modify g) s = .next (g s) := rfl

theorem run_pure (s : State) : run (pure ()) s = .next s := rfl

/-! ### Raising -/

theorem raise_apply {α : Type} (v : BitVec 8) (s : State) : (raise v : M α) s = .error .raised (afterRaise v s) := rfl

theorem raiseAddress_apply {α : Type} (addr : Word) (dir : Dir) (ctx : AccessCtx) (s : State) :
    (raiseAddress addr dir ctx : M α) s = .error .raised (afterAddressError addr dir ctx s) := rfl

theorem raiseIllegal_apply {α : Type} (v : BitVec 8) (s : State) :
    (raiseIllegal v : M α) s = .error .raised (afterRaise v s.rewindPc) := rfl

/-! ### Accesses -/

theorem readable_iff {c : Config} {sz : Size} {a : Word} :
    readable c sz a = true ↔ aligned sz a = true ∧ oneRegion c (busAddr c a) (sizeBytes sz) = true := by
  simp [readable]

theorem writable_iff {c : Config} {sz : Size} {a : Word} :
    writable c sz a = true ↔ readable c sz a = true ∧ guardFree c (busAddr c a) = true := by
  simp [writable]

theorem memRead_ok {sz : Size} {a : Word} {s : State} (h : readable s.config sz a = true) :
    memRead sz a s = .ok (s.loadValue sz a) (s.afterLoad sz a) := by
  obtain ⟨h1, h2⟩ := readable_iff.mp h
  simp [memRead, h1, h2]

theorem memWrite_ok {sz : Size} {a v : Word} {s : State} (h : writable s.config sz a = true) :
    memWrite sz a v s = .ok () (s.afterStore sz a v) := by
  obtain ⟨hr, h3⟩ := writable_iff.mp h
  obtain ⟨h1, h2⟩ := readable_iff.mp hr
  simp [memWrite, h1, h2, h3]

theorem memRead_misaligned {sz : Size} {a : Word} {s : State} (h : aligned sz a = false)
    (hf : s.config.dataAlignFault = true) :
    memRead sz a s = .error .raised (afterAddressError a .read .data s) := by
  simp [memRead, h, hf, raiseAddress_apply]

theorem memWrite_misaligned {sz : Size} {a v : Word} {s : State} (h : aligned sz a = false)
    (hf : s.config.dataAlignFault = true) :
    memWrite sz a v s = .error .raised (afterAddressError a .write .data s) := by
  simp [memWrite, h, hf, raiseAddress_apply]

/-- Everything a data read can answer. -/
theorem memRead_cases (sz : Size) (a : Word) (s : State) :
    (readable s.config sz a = true ∧ memRead sz a s = .ok (s.loadValue sz a) (s.afterLoad sz a)) ∨
    (aligned sz a = false ∧ memRead sz a s = .error .raised (afterAddressError a .read .data s)) ∨
    (∃ r, memRead sz a s = .error (.refusal r) s) := by
  by_cases h1 : aligned sz a = true
  · by_cases h2 : oneRegion s.config (busAddr s.config a) (sizeBytes sz) = true
    · exact .inl ⟨readable_iff.mpr ⟨h1, h2⟩, memRead_ok (readable_iff.mpr ⟨h1, h2⟩)⟩
    · exact .inr (.inr ⟨.regionStraddle, by simp [memRead, h1, h2, refuse]⟩)
  · simp only [Bool.not_eq_true] at h1
    by_cases hf : s.config.dataAlignFault = true
    · exact .inr (.inl ⟨h1, memRead_misaligned h1 hf⟩)
    · exact .inr (.inr ⟨.misalignedData, by simp [memRead, h1, hf, refuse]⟩)

/-- Everything a data write can answer. -/
theorem memWrite_cases (sz : Size) (a v : Word) (s : State) :
    (writable s.config sz a = true ∧ memWrite sz a v s = .ok () (s.afterStore sz a v)) ∨
    (aligned sz a = false ∧ memWrite sz a v s = .error .raised (afterAddressError a .write .data s)) ∨
    (∃ r, memWrite sz a v s = .error (.refusal r) s) ∨ memWrite sz a v s = .error (.fault .fatalHostError) s := by
  by_cases h1 : aligned sz a = true
  · by_cases h3 : guardFree s.config (busAddr s.config a) = true
    · by_cases h2 : oneRegion s.config (busAddr s.config a) (sizeBytes sz) = true
      · have h := writable_iff.mpr ⟨readable_iff.mpr ⟨h1, h2⟩, h3⟩
        exact .inl ⟨h, memWrite_ok h⟩
      · exact .inr (.inr (.inl ⟨.regionStraddle, by simp [memWrite, h1, h2, h3, refuse]⟩))
    · exact .inr (.inr (.inr (by simp [memWrite, h1, h3, failWith])))
  · simp only [Bool.not_eq_true] at h1
    by_cases hf : s.config.dataAlignFault = true
    · exact .inr (.inl ⟨h1, memWrite_misaligned h1 hf⟩)
    · exact .inr (.inr (.inl ⟨.misalignedData, by simp [memWrite, h1, hf, refuse]⟩))

/-! ### What accesses leave alone -/

theorem State.signal_eq (s : State) :
    s.signal = (s.setBudget 0 (if s.budget = 0 then s.budgetSaved else s.budget)).setAttention true := by
  unfold State.signal
  by_cases h : s.budget = 0
  · simp only [h, if_true]
    rw [show s.setBudget 0 s.budgetSaved = s from by
      conv_rhs => rw [show s = s.setBudget s.budget s.budgetSaved from rfl, h]]
  · simp [h]

/-- A device access changes the history, the pending level and what a signal changes. -/
theorem State.deviceEvent_eq (s : State) (ev : DevEvent) :
    ∃ l b b' at', s.deviceEvent ev = (((s.setDevLog (ev :: s.devLog)).setIpl l).setBudget b b').setAttention at' := by
  unfold State.deviceEvent
  simp only
  split
  · exact ⟨s.ipl, s.budget, s.budgetSaved, s.attention, rfl⟩
  · rw [State.raiseInterrupt, State.signal_eq]
    exact ⟨_, _, _, _, rfl⟩

/-- A data read changes nothing but the device's state and what a device may signal. -/
theorem State.afterLoad_eq (s : State) (sz : Size) (a : Word) :
    s.afterLoad sz a = s ∨
    ∃ lg l b b' at', s.afterLoad sz a = (((s.setDevLog lg).setIpl l).setBudget b b').setAttention at' := by
  unfold State.afterLoad
  simp only
  split
  · exact .inr ⟨_, State.deviceEvent_eq s _⟩
  · exact .inl rfl

/-- A data write changes memory, or the device's state and what a device may signal, or nothing. -/
theorem State.afterStore_eq (s : State) (sz : Size) (a v : Word) :
    s.afterStore sz a v = s ∨ s.afterStore sz a v = s.setMem (Memory.store s.mem sz (busAddr s.config a) v) ∨
    ∃ lg l b b' at', s.afterStore sz a v = (((s.setDevLog lg).setIpl l).setBudget b b').setAttention at' := by
  unfold State.afterStore
  simp only
  split
  · exact .inr (.inl rfl)
  · exact .inl rfl
  · exact .inr (.inr ⟨_, State.deviceEvent_eq s _⟩)

@[simp] theorem State.signal_d (s : State) : (s.signal).d = s.d := by
  rw [State.signal_eq]; rfl
@[simp] theorem State.signal_a (s : State) : (s.signal).a = s.a := by
  rw [State.signal_eq]; rfl
@[simp] theorem State.signal_usp (s : State) : (s.signal).usp = s.usp := by
  rw [State.signal_eq]; rfl
@[simp] theorem State.signal_ssp (s : State) : (s.signal).ssp = s.ssp := by
  rw [State.signal_eq]; rfl
@[simp] theorem State.signal_pc (s : State) : (s.signal).pc = s.pc := by
  rw [State.signal_eq]; rfl
@[simp] theorem State.signal_t (s : State) : (s.signal).t = s.t := by
  rw [State.signal_eq]; rfl
@[simp] theorem State.signal_sup (s : State) : (s.signal).sup = s.sup := by
  rw [State.signal_eq]; rfl
@[simp] theorem State.signal_imask (s : State) : (s.signal).imask = s.imask := by
  rw [State.signal_eq]; rfl
@[simp] theorem State.signal_ccr (s : State) : (s.signal).ccr = s.ccr := by
  rw [State.signal_eq]; rfl
@[simp] theorem State.signal_pendVec (s : State) : (s.signal).pendVec = s.pendVec := by
  rw [State.signal_eq]; rfl
@[simp] theorem State.signal_tracePend (s : State) : (s.signal).tracePend = s.tracePend := by
  rw [State.signal_eq]; rfl
@[simp] theorem State.signal_badAddr (s : State) : (s.signal).badAddr = s.badAddr := by
  rw [State.signal_eq]; rfl
@[simp] theorem State.signal_badDir (s : State) : (s.signal).badDir = s.badDir := by
  rw [State.signal_eq]; rfl
@[simp] theorem State.signal_badS (s : State) : (s.signal).badS = s.badS := by
  rw [State.signal_eq]; rfl
@[simp] theorem State.signal_badCtx (s : State) : (s.signal).badCtx = s.badCtx := by
  rw [State.signal_eq]; rfl
@[simp] theorem State.signal_halted (s : State) : (s.signal).halted = s.halted := by
  rw [State.signal_eq]; rfl
@[simp] theorem State.signal_ir (s : State) : (s.signal).ir = s.ir := by
  rw [State.signal_eq]; rfl
@[simp] theorem State.signal_mem (s : State) : (s.signal).mem = s.mem := by
  rw [State.signal_eq]; rfl
@[simp] theorem State.signal_drawn (s : State) : (s.signal).drawn = s.drawn := by
  rw [State.signal_eq]; rfl
@[simp] theorem State.signal_config (s : State) : (s.signal).config = s.config := by
  rw [State.signal_eq]; rfl
@[simp] theorem State.signal_ipl (s : State) : (s.signal).ipl = s.ipl := by
  rw [State.signal_eq]; rfl
@[simp] theorem State.signal_devLog (s : State) : (s.signal).devLog = s.devLog := by
  rw [State.signal_eq]; rfl
@[simp] theorem State.signal_dreg (s : State) (k : Fin 8) : (s.signal).dreg k = s.dreg k := by
  rw [State.signal_eq]; rfl
@[simp] theorem State.signal_areg (s : State) (k : Fin 8) : (s.signal).areg k = s.areg k := by
  rw [State.signal_eq]; rfl

@[simp] theorem State.deviceEvent_d (s : State) (ev : DevEvent) : (s.deviceEvent ev).d = s.d := by
  obtain ⟨l, b, b', at', h⟩ := s.deviceEvent_eq ev; rw [h]; rfl
@[simp] theorem State.deviceEvent_a (s : State) (ev : DevEvent) : (s.deviceEvent ev).a = s.a := by
  obtain ⟨l, b, b', at', h⟩ := s.deviceEvent_eq ev; rw [h]; rfl
@[simp] theorem State.deviceEvent_usp (s : State) (ev : DevEvent) : (s.deviceEvent ev).usp = s.usp := by
  obtain ⟨l, b, b', at', h⟩ := s.deviceEvent_eq ev; rw [h]; rfl
@[simp] theorem State.deviceEvent_ssp (s : State) (ev : DevEvent) : (s.deviceEvent ev).ssp = s.ssp := by
  obtain ⟨l, b, b', at', h⟩ := s.deviceEvent_eq ev; rw [h]; rfl
@[simp] theorem State.deviceEvent_pc (s : State) (ev : DevEvent) : (s.deviceEvent ev).pc = s.pc := by
  obtain ⟨l, b, b', at', h⟩ := s.deviceEvent_eq ev; rw [h]; rfl
@[simp] theorem State.deviceEvent_t (s : State) (ev : DevEvent) : (s.deviceEvent ev).t = s.t := by
  obtain ⟨l, b, b', at', h⟩ := s.deviceEvent_eq ev; rw [h]; rfl
@[simp] theorem State.deviceEvent_sup (s : State) (ev : DevEvent) : (s.deviceEvent ev).sup = s.sup := by
  obtain ⟨l, b, b', at', h⟩ := s.deviceEvent_eq ev; rw [h]; rfl
@[simp] theorem State.deviceEvent_imask (s : State) (ev : DevEvent) : (s.deviceEvent ev).imask = s.imask := by
  obtain ⟨l, b, b', at', h⟩ := s.deviceEvent_eq ev; rw [h]; rfl
@[simp] theorem State.deviceEvent_ccr (s : State) (ev : DevEvent) : (s.deviceEvent ev).ccr = s.ccr := by
  obtain ⟨l, b, b', at', h⟩ := s.deviceEvent_eq ev; rw [h]; rfl
@[simp] theorem State.deviceEvent_pendVec (s : State) (ev : DevEvent) : (s.deviceEvent ev).pendVec = s.pendVec := by
  obtain ⟨l, b, b', at', h⟩ := s.deviceEvent_eq ev; rw [h]; rfl
@[simp] theorem State.deviceEvent_tracePend (s : State) (ev : DevEvent) : (s.deviceEvent ev).tracePend = s.tracePend := by
  obtain ⟨l, b, b', at', h⟩ := s.deviceEvent_eq ev; rw [h]; rfl
@[simp] theorem State.deviceEvent_badAddr (s : State) (ev : DevEvent) : (s.deviceEvent ev).badAddr = s.badAddr := by
  obtain ⟨l, b, b', at', h⟩ := s.deviceEvent_eq ev; rw [h]; rfl
@[simp] theorem State.deviceEvent_badDir (s : State) (ev : DevEvent) : (s.deviceEvent ev).badDir = s.badDir := by
  obtain ⟨l, b, b', at', h⟩ := s.deviceEvent_eq ev; rw [h]; rfl
@[simp] theorem State.deviceEvent_badS (s : State) (ev : DevEvent) : (s.deviceEvent ev).badS = s.badS := by
  obtain ⟨l, b, b', at', h⟩ := s.deviceEvent_eq ev; rw [h]; rfl
@[simp] theorem State.deviceEvent_badCtx (s : State) (ev : DevEvent) : (s.deviceEvent ev).badCtx = s.badCtx := by
  obtain ⟨l, b, b', at', h⟩ := s.deviceEvent_eq ev; rw [h]; rfl
@[simp] theorem State.deviceEvent_halted (s : State) (ev : DevEvent) : (s.deviceEvent ev).halted = s.halted := by
  obtain ⟨l, b, b', at', h⟩ := s.deviceEvent_eq ev; rw [h]; rfl
@[simp] theorem State.deviceEvent_ir (s : State) (ev : DevEvent) : (s.deviceEvent ev).ir = s.ir := by
  obtain ⟨l, b, b', at', h⟩ := s.deviceEvent_eq ev; rw [h]; rfl
@[simp] theorem State.deviceEvent_mem (s : State) (ev : DevEvent) : (s.deviceEvent ev).mem = s.mem := by
  obtain ⟨l, b, b', at', h⟩ := s.deviceEvent_eq ev; rw [h]; rfl
@[simp] theorem State.deviceEvent_drawn (s : State) (ev : DevEvent) : (s.deviceEvent ev).drawn = s.drawn := by
  obtain ⟨l, b, b', at', h⟩ := s.deviceEvent_eq ev; rw [h]; rfl
@[simp] theorem State.deviceEvent_config (s : State) (ev : DevEvent) : (s.deviceEvent ev).config = s.config := by
  obtain ⟨l, b, b', at', h⟩ := s.deviceEvent_eq ev; rw [h]; rfl
@[simp] theorem State.deviceEvent_dreg (s : State) (ev : DevEvent) (k : Fin 8) : (s.deviceEvent ev).dreg k = s.dreg k := by
  obtain ⟨l, b, b', at', h⟩ := s.deviceEvent_eq ev; rw [h]; rfl
@[simp] theorem State.deviceEvent_areg (s : State) (ev : DevEvent) (k : Fin 8) : (s.deviceEvent ev).areg k = s.areg k := by
  obtain ⟨l, b, b', at', h⟩ := s.deviceEvent_eq ev; rw [h]; rfl

@[simp] theorem State.afterLoad_d (s : State) (sz : Size) (a : Word) : (s.afterLoad sz a).d = s.d := by
  rcases s.afterLoad_eq sz a with h | ⟨_, _, _, _, _, h⟩ <;> simp [h]
@[simp] theorem State.afterLoad_a (s : State) (sz : Size) (a : Word) : (s.afterLoad sz a).a = s.a := by
  rcases s.afterLoad_eq sz a with h | ⟨_, _, _, _, _, h⟩ <;> simp [h]
@[simp] theorem State.afterLoad_usp (s : State) (sz : Size) (a : Word) : (s.afterLoad sz a).usp = s.usp := by
  rcases s.afterLoad_eq sz a with h | ⟨_, _, _, _, _, h⟩ <;> simp [h]
@[simp] theorem State.afterLoad_ssp (s : State) (sz : Size) (a : Word) : (s.afterLoad sz a).ssp = s.ssp := by
  rcases s.afterLoad_eq sz a with h | ⟨_, _, _, _, _, h⟩ <;> simp [h]
@[simp] theorem State.afterLoad_pc (s : State) (sz : Size) (a : Word) : (s.afterLoad sz a).pc = s.pc := by
  rcases s.afterLoad_eq sz a with h | ⟨_, _, _, _, _, h⟩ <;> simp [h]
@[simp] theorem State.afterLoad_t (s : State) (sz : Size) (a : Word) : (s.afterLoad sz a).t = s.t := by
  rcases s.afterLoad_eq sz a with h | ⟨_, _, _, _, _, h⟩ <;> simp [h]
@[simp] theorem State.afterLoad_sup (s : State) (sz : Size) (a : Word) : (s.afterLoad sz a).sup = s.sup := by
  rcases s.afterLoad_eq sz a with h | ⟨_, _, _, _, _, h⟩ <;> simp [h]
@[simp] theorem State.afterLoad_imask (s : State) (sz : Size) (a : Word) : (s.afterLoad sz a).imask = s.imask := by
  rcases s.afterLoad_eq sz a with h | ⟨_, _, _, _, _, h⟩ <;> simp [h]
@[simp] theorem State.afterLoad_ccr (s : State) (sz : Size) (a : Word) : (s.afterLoad sz a).ccr = s.ccr := by
  rcases s.afterLoad_eq sz a with h | ⟨_, _, _, _, _, h⟩ <;> simp [h]
@[simp] theorem State.afterLoad_pendVec (s : State) (sz : Size) (a : Word) : (s.afterLoad sz a).pendVec = s.pendVec := by
  rcases s.afterLoad_eq sz a with h | ⟨_, _, _, _, _, h⟩ <;> simp [h]
@[simp] theorem State.afterLoad_tracePend (s : State) (sz : Size) (a : Word) : (s.afterLoad sz a).tracePend = s.tracePend := by
  rcases s.afterLoad_eq sz a with h | ⟨_, _, _, _, _, h⟩ <;> simp [h]
@[simp] theorem State.afterLoad_badAddr (s : State) (sz : Size) (a : Word) : (s.afterLoad sz a).badAddr = s.badAddr := by
  rcases s.afterLoad_eq sz a with h | ⟨_, _, _, _, _, h⟩ <;> simp [h]
@[simp] theorem State.afterLoad_badDir (s : State) (sz : Size) (a : Word) : (s.afterLoad sz a).badDir = s.badDir := by
  rcases s.afterLoad_eq sz a with h | ⟨_, _, _, _, _, h⟩ <;> simp [h]
@[simp] theorem State.afterLoad_badS (s : State) (sz : Size) (a : Word) : (s.afterLoad sz a).badS = s.badS := by
  rcases s.afterLoad_eq sz a with h | ⟨_, _, _, _, _, h⟩ <;> simp [h]
@[simp] theorem State.afterLoad_badCtx (s : State) (sz : Size) (a : Word) : (s.afterLoad sz a).badCtx = s.badCtx := by
  rcases s.afterLoad_eq sz a with h | ⟨_, _, _, _, _, h⟩ <;> simp [h]
@[simp] theorem State.afterLoad_halted (s : State) (sz : Size) (a : Word) : (s.afterLoad sz a).halted = s.halted := by
  rcases s.afterLoad_eq sz a with h | ⟨_, _, _, _, _, h⟩ <;> simp [h]
@[simp] theorem State.afterLoad_ir (s : State) (sz : Size) (a : Word) : (s.afterLoad sz a).ir = s.ir := by
  rcases s.afterLoad_eq sz a with h | ⟨_, _, _, _, _, h⟩ <;> simp [h]
@[simp] theorem State.afterLoad_mem (s : State) (sz : Size) (a : Word) : (s.afterLoad sz a).mem = s.mem := by
  rcases s.afterLoad_eq sz a with h | ⟨_, _, _, _, _, h⟩ <;> simp [h]
@[simp] theorem State.afterLoad_drawn (s : State) (sz : Size) (a : Word) : (s.afterLoad sz a).drawn = s.drawn := by
  rcases s.afterLoad_eq sz a with h | ⟨_, _, _, _, _, h⟩ <;> simp [h]
@[simp] theorem State.afterLoad_config (s : State) (sz : Size) (a : Word) : (s.afterLoad sz a).config = s.config := by
  rcases s.afterLoad_eq sz a with h | ⟨_, _, _, _, _, h⟩ <;> simp [h]
@[simp] theorem State.afterLoad_dreg (s : State) (sz : Size) (a : Word) (k : Fin 8) : (s.afterLoad sz a).dreg k = s.dreg k := by
  rcases s.afterLoad_eq sz a with h | ⟨_, _, _, _, _, h⟩ <;> simp [h]
@[simp] theorem State.afterLoad_areg (s : State) (sz : Size) (a : Word) (k : Fin 8) : (s.afterLoad sz a).areg k = s.areg k := by
  rcases s.afterLoad_eq sz a with h | ⟨_, _, _, _, _, h⟩ <;> simp [h]

@[simp] theorem State.afterStore_d (s : State) (sz : Size) (a v : Word) : (s.afterStore sz a v).d = s.d := by
  rcases s.afterStore_eq sz a v with h | h | ⟨_, _, _, _, _, h⟩ <;> simp [h]
@[simp] theorem State.afterStore_a (s : State) (sz : Size) (a v : Word) : (s.afterStore sz a v).a = s.a := by
  rcases s.afterStore_eq sz a v with h | h | ⟨_, _, _, _, _, h⟩ <;> simp [h]
@[simp] theorem State.afterStore_usp (s : State) (sz : Size) (a v : Word) : (s.afterStore sz a v).usp = s.usp := by
  rcases s.afterStore_eq sz a v with h | h | ⟨_, _, _, _, _, h⟩ <;> simp [h]
@[simp] theorem State.afterStore_ssp (s : State) (sz : Size) (a v : Word) : (s.afterStore sz a v).ssp = s.ssp := by
  rcases s.afterStore_eq sz a v with h | h | ⟨_, _, _, _, _, h⟩ <;> simp [h]
@[simp] theorem State.afterStore_pc (s : State) (sz : Size) (a v : Word) : (s.afterStore sz a v).pc = s.pc := by
  rcases s.afterStore_eq sz a v with h | h | ⟨_, _, _, _, _, h⟩ <;> simp [h]
@[simp] theorem State.afterStore_t (s : State) (sz : Size) (a v : Word) : (s.afterStore sz a v).t = s.t := by
  rcases s.afterStore_eq sz a v with h | h | ⟨_, _, _, _, _, h⟩ <;> simp [h]
@[simp] theorem State.afterStore_sup (s : State) (sz : Size) (a v : Word) : (s.afterStore sz a v).sup = s.sup := by
  rcases s.afterStore_eq sz a v with h | h | ⟨_, _, _, _, _, h⟩ <;> simp [h]
@[simp] theorem State.afterStore_imask (s : State) (sz : Size) (a v : Word) : (s.afterStore sz a v).imask = s.imask := by
  rcases s.afterStore_eq sz a v with h | h | ⟨_, _, _, _, _, h⟩ <;> simp [h]
@[simp] theorem State.afterStore_ccr (s : State) (sz : Size) (a v : Word) : (s.afterStore sz a v).ccr = s.ccr := by
  rcases s.afterStore_eq sz a v with h | h | ⟨_, _, _, _, _, h⟩ <;> simp [h]
@[simp] theorem State.afterStore_pendVec (s : State) (sz : Size) (a v : Word) : (s.afterStore sz a v).pendVec = s.pendVec := by
  rcases s.afterStore_eq sz a v with h | h | ⟨_, _, _, _, _, h⟩ <;> simp [h]
@[simp] theorem State.afterStore_tracePend (s : State) (sz : Size) (a v : Word) : (s.afterStore sz a v).tracePend = s.tracePend := by
  rcases s.afterStore_eq sz a v with h | h | ⟨_, _, _, _, _, h⟩ <;> simp [h]
@[simp] theorem State.afterStore_badAddr (s : State) (sz : Size) (a v : Word) : (s.afterStore sz a v).badAddr = s.badAddr := by
  rcases s.afterStore_eq sz a v with h | h | ⟨_, _, _, _, _, h⟩ <;> simp [h]
@[simp] theorem State.afterStore_badDir (s : State) (sz : Size) (a v : Word) : (s.afterStore sz a v).badDir = s.badDir := by
  rcases s.afterStore_eq sz a v with h | h | ⟨_, _, _, _, _, h⟩ <;> simp [h]
@[simp] theorem State.afterStore_badS (s : State) (sz : Size) (a v : Word) : (s.afterStore sz a v).badS = s.badS := by
  rcases s.afterStore_eq sz a v with h | h | ⟨_, _, _, _, _, h⟩ <;> simp [h]
@[simp] theorem State.afterStore_badCtx (s : State) (sz : Size) (a v : Word) : (s.afterStore sz a v).badCtx = s.badCtx := by
  rcases s.afterStore_eq sz a v with h | h | ⟨_, _, _, _, _, h⟩ <;> simp [h]
@[simp] theorem State.afterStore_halted (s : State) (sz : Size) (a v : Word) : (s.afterStore sz a v).halted = s.halted := by
  rcases s.afterStore_eq sz a v with h | h | ⟨_, _, _, _, _, h⟩ <;> simp [h]
@[simp] theorem State.afterStore_ir (s : State) (sz : Size) (a v : Word) : (s.afterStore sz a v).ir = s.ir := by
  rcases s.afterStore_eq sz a v with h | h | ⟨_, _, _, _, _, h⟩ <;> simp [h]
@[simp] theorem State.afterStore_drawn (s : State) (sz : Size) (a v : Word) : (s.afterStore sz a v).drawn = s.drawn := by
  rcases s.afterStore_eq sz a v with h | h | ⟨_, _, _, _, _, h⟩ <;> simp [h]
@[simp] theorem State.afterStore_config (s : State) (sz : Size) (a v : Word) : (s.afterStore sz a v).config = s.config := by
  rcases s.afterStore_eq sz a v with h | h | ⟨_, _, _, _, _, h⟩ <;> simp [h]
@[simp] theorem State.afterStore_dreg (s : State) (sz : Size) (a v : Word) (k : Fin 8) : (s.afterStore sz a v).dreg k = s.dreg k := by
  rcases s.afterStore_eq sz a v with h | h | ⟨_, _, _, _, _, h⟩ <;> simp [h]
@[simp] theorem State.afterStore_areg (s : State) (sz : Size) (a v : Word) (k : Fin 8) : (s.afterStore sz a v).areg k = s.areg k := by
  rcases s.afterStore_eq sz a v with h | h | ⟨_, _, _, _, _, h⟩ <;> simp [h]

/-! ### The device history -/

/-- From s to t the device history only grew, by accesses at window addresses; the pending level is as it was where it
did not grow (R74, R77). -/
def DeviceGrows (c : Config) (s t : State) : Prop :=
  ∃ l, t.devLog = l ++ s.devLog ∧ (l = [] → t.ipl = s.ipl) ∧
    ∀ e ∈ l, regionAt c e.addr = .window

theorem DeviceGrows.of_eq {c : Config} {s t : State} (h : t.devLog = s.devLog) (hi : t.ipl = s.ipl) :
    DeviceGrows c s t := ⟨[], h, fun _ => hi, fun _ he => (by cases he)⟩

theorem DeviceGrows.trans {c : Config} {s t u : State} (h : DeviceGrows c s t) (h' : DeviceGrows c t u) :
    DeviceGrows c s u := by
  obtain ⟨l, h1, h2, h3⟩ := h
  obtain ⟨l', h1', h2', h3'⟩ := h'
  refine ⟨l' ++ l, by rw [h1', h1, List.append_assoc], fun hn => ?_, fun e he => ?_⟩
  · obtain ⟨ha, hb⟩ := List.append_eq_nil_iff.mp hn
    rw [h2' ha, h2 hb]
  · exact (List.mem_append.mp he).elim (h3' e) (h3 e)

theorem State.deviceEvent_devLog (s : State) (ev : DevEvent) : (s.deviceEvent ev).devLog = ev :: s.devLog := by
  obtain ⟨l, b, b', at', h⟩ := s.deviceEvent_eq ev; rw [h]; rfl

theorem DeviceGrows.deviceEvent {c : Config} (s : State) {ev : DevEvent} (hw : regionAt c ev.addr = .window) :
    DeviceGrows c s (s.deviceEvent ev) :=
  ⟨[ev], s.deviceEvent_devLog ev, fun h => (by cases h), fun e he => by
    rw [List.mem_singleton] at he; subst he; exact hw⟩

/-- What a data read does to the device history. -/
theorem State.afterLoad_deviceGrows (s : State) (sz : Size) (a : Word) : DeviceGrows s.config s (s.afterLoad sz a) := by
  unfold State.afterLoad
  simp only
  split
  · rename_i h
    exact .deviceEvent s h
  · exact .of_eq rfl rfl

/-- What a data write does to the device history. -/
theorem State.afterStore_deviceGrows (s : State) (sz : Size) (a v : Word) :
    DeviceGrows s.config s (s.afterStore sz a v) := by
  unfold State.afterStore
  simp only
  split
  · exact .of_eq rfl rfl
  · exact .of_eq rfl rfl
  · rename_i h
    exact .deviceEvent s h

end Sys2Proof.Machine
end

