-- ==== Sys2Proof/Laws/Operands.lean ====
section
/-! SUPPORT. One lemma per operand operation: what fetching, resolving, reading, writing, pushing and popping answer when
they go through. -/
namespace Sys2Proof.Machine

/-! ### The instruction stream -/

theorem nextWord (pc : Word) (k : Nat) : pc + 2 + BitVec.ofNat 32 (2 * k) = pc + BitVec.ofNat 32 (2 * (k + 1)) := by
  rw [Nat.mul_add, BitVec.ofNat_add, BitVec.add_comm (BitVec.ofNat 32 (2 * k)), ← BitVec.add_assoc]
  rfl

theorem State.streamWord_setPc (s : State) (k : Nat) :
    (s.setPc (s.pc + 2)).streamWord k = s.streamWord (k + 1) := by
  have h := nextWord s.pc k
  show (s.setPc (s.pc + 2)).wordAt (s.pc + 2 + BitVec.ofNat 32 (2 * k)) = s.wordAt _
  rw [h]
  rfl

theorem fetchable_setPc (s : State) (k : Nat) : fetchable (s.setPc (s.pc + 2)) k = fetchable s (k + 1) := by
  have h := nextWord s.pc k
  simp only [fetchable, State.setPc_pc, State.setPc_config, h]

theorem wordsReady_zero (s : State) : wordsReady s 0 = true := rfl

theorem wordsReady_succ (s : State) (k : Nat) :
    wordsReady s (k + 1) = true ↔ fetchable s 0 = true ∧ wordsReady (s.setPc (s.pc + 2)) k = true := by
  unfold wordsReady
  rw [List.range_succ_eq_map]
  simp only [List.all_cons, List.all_map, Bool.and_eq_true, List.all_eq_true, Function.comp, fetchable_setPc]

theorem memFetch_ok {s : State} (h : fetchable s 0 = true) : memFetch s.pc s = .ok (s.streamWord 0) s := by
  simp only [fetchable, Nat.mul_zero, BitVec.add_zero, Bool.and_eq_true, Bool.not_eq_true',
    decide_eq_true_eq] at h
  obtain ⟨⟨h1, h2⟩, h3⟩ := h
  simp [memFetch, h1, h2, h3, State.streamWord]

theorem fetchWord_ok {s : State} (h : fetchable s 0 = true) :
    fetchWord s = .ok (s.streamWord 0) (s.setPc (s.pc + 2)) := by
  unfold fetchWord
  simp only [M.get_bind]
  rw [M.bind_ok (memFetch_ok h)]
  rfl

theorem State.afterWords_zero (s : State) : s.afterWords 0 = s := by
  simp [State.afterWords, State.setPc]

theorem State.afterWords_succ (s : State) (k : Nat) : (s.setPc (s.pc + 2)).afterWords k = s.afterWords (k + 1) := by
  have h := nextWord s.pc k
  show (s.setPc (s.pc + 2)).setPc (s.pc + 2 + BitVec.ofNat 32 (2 * k)) = _
  rw [h]
  rfl

theorem fetchWords_ok {k : Nat} {s : State} (h : wordsReady s k = true) :
    fetchWords k s = .ok () (s.afterWords k) := by
  induction k generalizing s with
  | zero => simp [fetchWords, State.afterWords_zero]
  | succ k ih =>
    obtain ⟨h1, h2⟩ := (wordsReady_succ s k).mp h
    unfold fetchWords
    rw [M.bind_ok (fetchWord_ok h1), ih h2, State.afterWords_succ]

theorem wordsReady_one {s : State} : wordsReady s 1 = true ↔ fetchable s 0 = true := by
  rw [wordsReady_succ]
  simp [wordsReady_zero]

theorem fetchWord_ready {s : State} (h : wordsReady s 1 = true) :
    fetchWord s = .ok (s.streamWord 0) (s.afterWords 1) := fetchWord_ok (wordsReady_one.mp h)

theorem fetchImm_ok {sz : Size} {s : State} (h : wordsReady s (immWords sz) = true) :
    fetchImm sz s = .ok (immValue sz s) (s.afterWords (immWords sz)) := by
  unfold fetchImm
  simp only [M.get_bind]
  rw [M.bind_ok (fetchWords_ok h)]
  rfl

theorem fetchBranchDisp_ok {d : Byte} {s : State} (h : wordsReady s (branchWords d) = true) :
    fetchBranchDisp d s = .ok (branchDisp d s) (s.afterWords (branchWords d)) := by
  unfold fetchBranchDisp
  simp only [M.get_bind]
  rw [M.bind_ok (fetchWords_ok h)]
  rfl

/-! ### Fields the operand operations leave alone -/

@[simp] theorem State.afterWords_a (s : State) (n : Nat) : (s.afterWords n).a = s.a := rfl
@[simp] theorem State.afterWords_d (s : State) (n : Nat) : (s.afterWords n).d = s.d := rfl
@[simp] theorem State.afterWords_usp (s : State) (n : Nat) : (s.afterWords n).usp = s.usp := rfl
@[simp] theorem State.afterWords_ssp (s : State) (n : Nat) : (s.afterWords n).ssp = s.ssp := rfl
@[simp] theorem State.afterWords_t (s : State) (n : Nat) : (s.afterWords n).t = s.t := rfl
@[simp] theorem State.afterWords_sup (s : State) (n : Nat) : (s.afterWords n).sup = s.sup := rfl
@[simp] theorem State.afterWords_imask (s : State) (n : Nat) : (s.afterWords n).imask = s.imask := rfl
@[simp] theorem State.afterWords_ccr (s : State) (n : Nat) : (s.afterWords n).ccr = s.ccr := rfl
@[simp] theorem State.afterWords_pendVec (s : State) (n : Nat) : (s.afterWords n).pendVec = s.pendVec := rfl
@[simp] theorem State.afterWords_tracePend (s : State) (n : Nat) : (s.afterWords n).tracePend = s.tracePend := rfl
@[simp] theorem State.afterWords_badAddr (s : State) (n : Nat) : (s.afterWords n).badAddr = s.badAddr := rfl
@[simp] theorem State.afterWords_badDir (s : State) (n : Nat) : (s.afterWords n).badDir = s.badDir := rfl
@[simp] theorem State.afterWords_badS (s : State) (n : Nat) : (s.afterWords n).badS = s.badS := rfl
@[simp] theorem State.afterWords_badCtx (s : State) (n : Nat) : (s.afterWords n).badCtx = s.badCtx := rfl
@[simp] theorem State.afterWords_halted (s : State) (n : Nat) : (s.afterWords n).halted = s.halted := rfl
@[simp] theorem State.afterWords_ir (s : State) (n : Nat) : (s.afterWords n).ir = s.ir := rfl
@[simp] theorem State.afterWords_mem (s : State) (n : Nat) : (s.afterWords n).mem = s.mem := rfl
@[simp] theorem State.afterWords_drawn (s : State) (n : Nat) : (s.afterWords n).drawn = s.drawn := rfl
@[simp] theorem State.afterWords_config (s : State) (n : Nat) : (s.afterWords n).config = s.config := rfl
@[simp] theorem State.afterWords_ipl (s : State) (n : Nat) : (s.afterWords n).ipl = s.ipl := rfl
@[simp] theorem State.afterWords_devLog (s : State) (n : Nat) : (s.afterWords n).devLog = s.devLog := rfl
@[simp] theorem State.afterWords_budget (s : State) (n : Nat) : (s.afterWords n).budget = s.budget := rfl
@[simp] theorem State.afterWords_budgetSaved (s : State) (n : Nat) : (s.afterWords n).budgetSaved = s.budgetSaved := rfl
@[simp] theorem State.afterWords_attention (s : State) (n : Nat) : (s.afterWords n).attention = s.attention := rfl
@[simp] theorem State.afterWords_dreg (s : State) (n : Nat) (k : Fin 8) : (s.afterWords n).dreg k = s.dreg k := rfl
@[simp] theorem State.afterWords_areg (s : State) (n : Nat) (k : Fin 8) : (s.afterWords n).areg k = s.areg k := rfl

@[simp] theorem State.afterWords_pc (s : State) (n : Nat) : (s.afterWords n).pc = s.pc + BitVec.ofNat 32 (2 * n) := rfl

@[simp] theorem eaSideEffect_d (sz : Size) (e : Ea) (s : State) : (eaSideEffect sz e s).d = s.d := by
  cases e <;> rfl
@[simp] theorem eaSideEffect_usp (sz : Size) (e : Ea) (s : State) : (eaSideEffect sz e s).usp = s.usp := by
  cases e <;> rfl
@[simp] theorem eaSideEffect_ssp (sz : Size) (e : Ea) (s : State) : (eaSideEffect sz e s).ssp = s.ssp := by
  cases e <;> rfl
@[simp] theorem eaSideEffect_t (sz : Size) (e : Ea) (s : State) : (eaSideEffect sz e s).t = s.t := by
  cases e <;> rfl
@[simp] theorem eaSideEffect_sup (sz : Size) (e : Ea) (s : State) : (eaSideEffect sz e s).sup = s.sup := by
  cases e <;> rfl
@[simp] theorem eaSideEffect_imask (sz : Size) (e : Ea) (s : State) : (eaSideEffect sz e s).imask = s.imask := by
  cases e <;> rfl
@[simp] theorem eaSideEffect_ccr (sz : Size) (e : Ea) (s : State) : (eaSideEffect sz e s).ccr = s.ccr := by
  cases e <;> rfl
@[simp] theorem eaSideEffect_pendVec (sz : Size) (e : Ea) (s : State) : (eaSideEffect sz e s).pendVec = s.pendVec := by
  cases e <;> rfl
@[simp] theorem eaSideEffect_tracePend (sz : Size) (e : Ea) (s : State) : (eaSideEffect sz e s).tracePend = s.tracePend := by
  cases e <;> rfl
@[simp] theorem eaSideEffect_badAddr (sz : Size) (e : Ea) (s : State) : (eaSideEffect sz e s).badAddr = s.badAddr := by
  cases e <;> rfl
@[simp] theorem eaSideEffect_badDir (sz : Size) (e : Ea) (s : State) : (eaSideEffect sz e s).badDir = s.badDir := by
  cases e <;> rfl
@[simp] theorem eaSideEffect_badS (sz : Size) (e : Ea) (s : State) : (eaSideEffect sz e s).badS = s.badS := by
  cases e <;> rfl
@[simp] theorem eaSideEffect_badCtx (sz : Size) (e : Ea) (s : State) : (eaSideEffect sz e s).badCtx = s.badCtx := by
  cases e <;> rfl
@[simp] theorem eaSideEffect_halted (sz : Size) (e : Ea) (s : State) : (eaSideEffect sz e s).halted = s.halted := by
  cases e <;> rfl
@[simp] theorem eaSideEffect_ir (sz : Size) (e : Ea) (s : State) : (eaSideEffect sz e s).ir = s.ir := by
  cases e <;> rfl
@[simp] theorem eaSideEffect_mem (sz : Size) (e : Ea) (s : State) : (eaSideEffect sz e s).mem = s.mem := by
  cases e <;> rfl
@[simp] theorem eaSideEffect_drawn (sz : Size) (e : Ea) (s : State) : (eaSideEffect sz e s).drawn = s.drawn := by
  cases e <;> rfl
@[simp] theorem eaSideEffect_config (sz : Size) (e : Ea) (s : State) : (eaSideEffect sz e s).config = s.config := by
  cases e <;> rfl
@[simp] theorem eaSideEffect_ipl (sz : Size) (e : Ea) (s : State) : (eaSideEffect sz e s).ipl = s.ipl := by
  cases e <;> rfl
@[simp] theorem eaSideEffect_devLog (sz : Size) (e : Ea) (s : State) : (eaSideEffect sz e s).devLog = s.devLog := by
  cases e <;> rfl
@[simp] theorem eaSideEffect_budget (sz : Size) (e : Ea) (s : State) : (eaSideEffect sz e s).budget = s.budget := by
  cases e <;> rfl
@[simp] theorem eaSideEffect_budgetSaved (sz : Size) (e : Ea) (s : State) : (eaSideEffect sz e s).budgetSaved = s.budgetSaved := by
  cases e <;> rfl
@[simp] theorem eaSideEffect_attention (sz : Size) (e : Ea) (s : State) : (eaSideEffect sz e s).attention = s.attention := by
  cases e <;> rfl
@[simp] theorem eaSideEffect_pc (sz : Size) (e : Ea) (s : State) : (eaSideEffect sz e s).pc = s.pc := by
  cases e <;> rfl
@[simp] theorem eaSideEffect_dreg (sz : Size) (e : Ea) (s : State) (k : Fin 8) : (eaSideEffect sz e s).dreg k = s.dreg k := by
  cases e <;> rfl

@[simp] theorem eaAfter_d (sz : Size) (e : Ea) (s : State) : (eaAfter sz e s).d = s.d := by
  simp [eaAfter]
@[simp] theorem eaAfter_usp (sz : Size) (e : Ea) (s : State) : (eaAfter sz e s).usp = s.usp := by
  simp [eaAfter]
@[simp] theorem eaAfter_ssp (sz : Size) (e : Ea) (s : State) : (eaAfter sz e s).ssp = s.ssp := by
  simp [eaAfter]
@[simp] theorem eaAfter_t (sz : Size) (e : Ea) (s : State) : (eaAfter sz e s).t = s.t := by
  simp [eaAfter]
@[simp] theorem eaAfter_sup (sz : Size) (e : Ea) (s : State) : (eaAfter sz e s).sup = s.sup := by
  simp [eaAfter]
@[simp] theorem eaAfter_imask (sz : Size) (e : Ea) (s : State) : (eaAfter sz e s).imask = s.imask := by
  simp [eaAfter]
@[simp] theorem eaAfter_ccr (sz : Size) (e : Ea) (s : State) : (eaAfter sz e s).ccr = s.ccr := by
  simp [eaAfter]
@[simp] theorem eaAfter_pendVec (sz : Size) (e : Ea) (s : State) : (eaAfter sz e s).pendVec = s.pendVec := by
  simp [eaAfter]
@[simp] theorem eaAfter_tracePend (sz : Size) (e : Ea) (s : State) : (eaAfter sz e s).tracePend = s.tracePend := by
  simp [eaAfter]
@[simp] theorem eaAfter_badAddr (sz : Size) (e : Ea) (s : State) : (eaAfter sz e s).badAddr = s.badAddr := by
  simp [eaAfter]
@[simp] theorem eaAfter_badDir (sz : Size) (e : Ea) (s : State) : (eaAfter sz e s).badDir = s.badDir := by
  simp [eaAfter]
@[simp] theorem eaAfter_badS (sz : Size) (e : Ea) (s : State) : (eaAfter sz e s).badS = s.badS := by
  simp [eaAfter]
@[simp] theorem eaAfter_badCtx (sz : Size) (e : Ea) (s : State) : (eaAfter sz e s).badCtx = s.badCtx := by
  simp [eaAfter]
@[simp] theorem eaAfter_halted (sz : Size) (e : Ea) (s : State) : (eaAfter sz e s).halted = s.halted := by
  simp [eaAfter]
@[simp] theorem eaAfter_ir (sz : Size) (e : Ea) (s : State) : (eaAfter sz e s).ir = s.ir := by
  simp [eaAfter]
@[simp] theorem eaAfter_mem (sz : Size) (e : Ea) (s : State) : (eaAfter sz e s).mem = s.mem := by
  simp [eaAfter]
@[simp] theorem eaAfter_drawn (sz : Size) (e : Ea) (s : State) : (eaAfter sz e s).drawn = s.drawn := by
  simp [eaAfter]
@[simp] theorem eaAfter_config (sz : Size) (e : Ea) (s : State) : (eaAfter sz e s).config = s.config := by
  simp [eaAfter]
@[simp] theorem eaAfter_ipl (sz : Size) (e : Ea) (s : State) : (eaAfter sz e s).ipl = s.ipl := by
  simp [eaAfter]
@[simp] theorem eaAfter_devLog (sz : Size) (e : Ea) (s : State) : (eaAfter sz e s).devLog = s.devLog := by
  simp [eaAfter]
@[simp] theorem eaAfter_budget (sz : Size) (e : Ea) (s : State) : (eaAfter sz e s).budget = s.budget := by
  simp [eaAfter]
@[simp] theorem eaAfter_budgetSaved (sz : Size) (e : Ea) (s : State) : (eaAfter sz e s).budgetSaved = s.budgetSaved := by
  simp [eaAfter]
@[simp] theorem eaAfter_attention (sz : Size) (e : Ea) (s : State) : (eaAfter sz e s).attention = s.attention := by
  simp [eaAfter]
@[simp] theorem eaAfter_dreg (sz : Size) (e : Ea) (s : State) (k : Fin 8) : (eaAfter sz e s).dreg k = s.dreg k := by
  simp [eaAfter]

@[simp] theorem eaAfter_pc (sz : Size) (e : Ea) (s : State) : (eaAfter sz e s).pc = s.pc + BitVec.ofNat 32 (2 * eaWords e) := by
  simp [eaAfter]

@[simp] theorem handleAfterRead_a (sz : Size) (h : Handle) (s : State) : (handleAfterRead sz h s).a = s.a := by
  cases h <;> simp [handleAfterRead]
@[simp] theorem handleAfterRead_pc (sz : Size) (h : Handle) (s : State) : (handleAfterRead sz h s).pc = s.pc := by
  cases h <;> simp [handleAfterRead]
@[simp] theorem handleAfterRead_d (sz : Size) (h : Handle) (s : State) : (handleAfterRead sz h s).d = s.d := by
  cases h <;> simp [handleAfterRead]
@[simp] theorem handleAfterRead_usp (sz : Size) (h : Handle) (s : State) : (handleAfterRead sz h s).usp = s.usp := by
  cases h <;> simp [handleAfterRead]
@[simp] theorem handleAfterRead_ssp (sz : Size) (h : Handle) (s : State) : (handleAfterRead sz h s).ssp = s.ssp := by
  cases h <;> simp [handleAfterRead]
@[simp] theorem handleAfterRead_t (sz : Size) (h : Handle) (s : State) : (handleAfterRead sz h s).t = s.t := by
  cases h <;> simp [handleAfterRead]
@[simp] theorem handleAfterRead_sup (sz : Size) (h : Handle) (s : State) : (handleAfterRead sz h s).sup = s.sup := by
  cases h <;> simp [handleAfterRead]
@[simp] theorem handleAfterRead_imask (sz : Size) (h : Handle) (s : State) : (handleAfterRead sz h s).imask = s.imask := by
  cases h <;> simp [handleAfterRead]
@[simp] theorem handleAfterRead_ccr (sz : Size) (h : Handle) (s : State) : (handleAfterRead sz h s).ccr = s.ccr := by
  cases h <;> simp [handleAfterRead]
@[simp] theorem handleAfterRead_pendVec (sz : Size) (h : Handle) (s : State) : (handleAfterRead sz h s).pendVec = s.pendVec := by
  cases h <;> simp [handleAfterRead]
@[simp] theorem handleAfterRead_tracePend (sz : Size) (h : Handle) (s : State) : (handleAfterRead sz h s).tracePend = s.tracePend := by
  cases h <;> simp [handleAfterRead]
@[simp] theorem handleAfterRead_badAddr (sz : Size) (h : Handle) (s : State) : (handleAfterRead sz h s).badAddr = s.badAddr := by
  cases h <;> simp [handleAfterRead]
@[simp] theorem handleAfterRead_badDir (sz : Size) (h : Handle) (s : State) : (handleAfterRead sz h s).badDir = s.badDir := by
  cases h <;> simp [handleAfterRead]
@[simp] theorem handleAfterRead_badS (sz : Size) (h : Handle) (s : State) : (handleAfterRead sz h s).badS = s.badS := by
  cases h <;> simp [handleAfterRead]
@[simp] theorem handleAfterRead_badCtx (sz : Size) (h : Handle) (s : State) : (handleAfterRead sz h s).badCtx = s.badCtx := by
  cases h <;> simp [handleAfterRead]
@[simp] theorem handleAfterRead_halted (sz : Size) (h : Handle) (s : State) : (handleAfterRead sz h s).halted = s.halted := by
  cases h <;> simp [handleAfterRead]
@[simp] theorem handleAfterRead_ir (sz : Size) (h : Handle) (s : State) : (handleAfterRead sz h s).ir = s.ir := by
  cases h <;> simp [handleAfterRead]
@[simp] theorem handleAfterRead_mem (sz : Size) (h : Handle) (s : State) : (handleAfterRead sz h s).mem = s.mem := by
  cases h <;> simp [handleAfterRead]
@[simp] theorem handleAfterRead_drawn (sz : Size) (h : Handle) (s : State) : (handleAfterRead sz h s).drawn = s.drawn := by
  cases h <;> simp [handleAfterRead]
@[simp] theorem handleAfterRead_config (sz : Size) (h : Handle) (s : State) : (handleAfterRead sz h s).config = s.config := by
  cases h <;> simp [handleAfterRead]
@[simp] theorem handleAfterRead_dreg (sz : Size) (h : Handle) (s : State) (k : Fin 8) : (handleAfterRead sz h s).dreg k = s.dreg k := by
  cases h <;> simp [handleAfterRead]
@[simp] theorem handleAfterRead_areg (sz : Size) (h : Handle) (s : State) (k : Fin 8) : (handleAfterRead sz h s).areg k = s.areg k := by
  cases h <;> simp [handleAfterRead]

@[simp] theorem afterOperand_d (sz : Size) (e : Ea) (s : State) : (afterOperand sz e s).d = s.d := by
  simp [afterOperand]
@[simp] theorem afterOperand_usp (sz : Size) (e : Ea) (s : State) : (afterOperand sz e s).usp = s.usp := by
  simp [afterOperand]
@[simp] theorem afterOperand_ssp (sz : Size) (e : Ea) (s : State) : (afterOperand sz e s).ssp = s.ssp := by
  simp [afterOperand]
@[simp] theorem afterOperand_t (sz : Size) (e : Ea) (s : State) : (afterOperand sz e s).t = s.t := by
  simp [afterOperand]
@[simp] theorem afterOperand_sup (sz : Size) (e : Ea) (s : State) : (afterOperand sz e s).sup = s.sup := by
  simp [afterOperand]
@[simp] theorem afterOperand_imask (sz : Size) (e : Ea) (s : State) : (afterOperand sz e s).imask = s.imask := by
  simp [afterOperand]
@[simp] theorem afterOperand_ccr (sz : Size) (e : Ea) (s : State) : (afterOperand sz e s).ccr = s.ccr := by
  simp [afterOperand]
@[simp] theorem afterOperand_pendVec (sz : Size) (e : Ea) (s : State) : (afterOperand sz e s).pendVec = s.pendVec := by
  simp [afterOperand]
@[simp] theorem afterOperand_tracePend (sz : Size) (e : Ea) (s : State) : (afterOperand sz e s).tracePend = s.tracePend := by
  simp [afterOperand]
@[simp] theorem afterOperand_badAddr (sz : Size) (e : Ea) (s : State) : (afterOperand sz e s).badAddr = s.badAddr := by
  simp [afterOperand]
@[simp] theorem afterOperand_badDir (sz : Size) (e : Ea) (s : State) : (afterOperand sz e s).badDir = s.badDir := by
  simp [afterOperand]
@[simp] theorem afterOperand_badS (sz : Size) (e : Ea) (s : State) : (afterOperand sz e s).badS = s.badS := by
  simp [afterOperand]
@[simp] theorem afterOperand_badCtx (sz : Size) (e : Ea) (s : State) : (afterOperand sz e s).badCtx = s.badCtx := by
  simp [afterOperand]
@[simp] theorem afterOperand_halted (sz : Size) (e : Ea) (s : State) : (afterOperand sz e s).halted = s.halted := by
  simp [afterOperand]
@[simp] theorem afterOperand_ir (sz : Size) (e : Ea) (s : State) : (afterOperand sz e s).ir = s.ir := by
  simp [afterOperand]
@[simp] theorem afterOperand_mem (sz : Size) (e : Ea) (s : State) : (afterOperand sz e s).mem = s.mem := by
  simp [afterOperand]
@[simp] theorem afterOperand_drawn (sz : Size) (e : Ea) (s : State) : (afterOperand sz e s).drawn = s.drawn := by
  simp [afterOperand]
@[simp] theorem afterOperand_config (sz : Size) (e : Ea) (s : State) : (afterOperand sz e s).config = s.config := by
  simp [afterOperand]
@[simp] theorem afterOperand_dreg (sz : Size) (e : Ea) (s : State) (k : Fin 8) : (afterOperand sz e s).dreg k = s.dreg k := by
  simp [afterOperand]

@[simp] theorem afterOperand_pc (sz : Size) (e : Ea) (s : State) : (afterOperand sz e s).pc = s.pc + BitVec.ofNat 32 (2 * eaWords e) := by
  simp [afterOperand]

@[simp] theorem handleAfterWrite_usp (sz : Size) (h : Handle) (v : Word) (s : State) : (handleAfterWrite sz h v s).usp = s.usp := by
  cases h <;> simp [handleAfterWrite]
@[simp] theorem handleAfterWrite_ssp (sz : Size) (h : Handle) (v : Word) (s : State) : (handleAfterWrite sz h v s).ssp = s.ssp := by
  cases h <;> simp [handleAfterWrite]
@[simp] theorem handleAfterWrite_t (sz : Size) (h : Handle) (v : Word) (s : State) : (handleAfterWrite sz h v s).t = s.t := by
  cases h <;> simp [handleAfterWrite]
@[simp] theorem handleAfterWrite_sup (sz : Size) (h : Handle) (v : Word) (s : State) : (handleAfterWrite sz h v s).sup = s.sup := by
  cases h <;> simp [handleAfterWrite]
@[simp] theorem handleAfterWrite_imask (sz : Size) (h : Handle) (v : Word) (s : State) : (handleAfterWrite sz h v s).imask = s.imask := by
  cases h <;> simp [handleAfterWrite]
@[simp] theorem handleAfterWrite_ccr (sz : Size) (h : Handle) (v : Word) (s : State) : (handleAfterWrite sz h v s).ccr = s.ccr := by
  cases h <;> simp [handleAfterWrite]
@[simp] theorem handleAfterWrite_pendVec (sz : Size) (h : Handle) (v : Word) (s : State) : (handleAfterWrite sz h v s).pendVec = s.pendVec := by
  cases h <;> simp [handleAfterWrite]
@[simp] theorem handleAfterWrite_tracePend (sz : Size) (h : Handle) (v : Word) (s : State) : (handleAfterWrite sz h v s).tracePend = s.tracePend := by
  cases h <;> simp [handleAfterWrite]
@[simp] theorem handleAfterWrite_badAddr (sz : Size) (h : Handle) (v : Word) (s : State) : (handleAfterWrite sz h v s).badAddr = s.badAddr := by
  cases h <;> simp [handleAfterWrite]
@[simp] theorem handleAfterWrite_badDir (sz : Size) (h : Handle) (v : Word) (s : State) : (handleAfterWrite sz h v s).badDir = s.badDir := by
  cases h <;> simp [handleAfterWrite]
@[simp] theorem handleAfterWrite_badS (sz : Size) (h : Handle) (v : Word) (s : State) : (handleAfterWrite sz h v s).badS = s.badS := by
  cases h <;> simp [handleAfterWrite]
@[simp] theorem handleAfterWrite_badCtx (sz : Size) (h : Handle) (v : Word) (s : State) : (handleAfterWrite sz h v s).badCtx = s.badCtx := by
  cases h <;> simp [handleAfterWrite]
@[simp] theorem handleAfterWrite_halted (sz : Size) (h : Handle) (v : Word) (s : State) : (handleAfterWrite sz h v s).halted = s.halted := by
  cases h <;> simp [handleAfterWrite]
@[simp] theorem handleAfterWrite_ir (sz : Size) (h : Handle) (v : Word) (s : State) : (handleAfterWrite sz h v s).ir = s.ir := by
  cases h <;> simp [handleAfterWrite]
@[simp] theorem handleAfterWrite_drawn (sz : Size) (h : Handle) (v : Word) (s : State) : (handleAfterWrite sz h v s).drawn = s.drawn := by
  cases h <;> simp [handleAfterWrite]
@[simp] theorem handleAfterWrite_config (sz : Size) (h : Handle) (v : Word) (s : State) : (handleAfterWrite sz h v s).config = s.config := by
  cases h <;> simp [handleAfterWrite]
@[simp] theorem handleAfterWrite_pc (sz : Size) (h : Handle) (v : Word) (s : State) : (handleAfterWrite sz h v s).pc = s.pc := by
  cases h <;> simp [handleAfterWrite]

@[simp] theorem afterUpdate_usp (sz : Size) (e : Ea) (v : Word) (s : State) : (afterUpdate sz e v s).usp = s.usp := by
  simp [afterUpdate]
@[simp] theorem afterAssign_usp (sz : Size) (e : Ea) (v : Word) (s : State) : (afterAssign sz e v s).usp = s.usp := by
  simp [afterAssign]
@[simp] theorem afterUpdate_ssp (sz : Size) (e : Ea) (v : Word) (s : State) : (afterUpdate sz e v s).ssp = s.ssp := by
  simp [afterUpdate]
@[simp] theorem afterAssign_ssp (sz : Size) (e : Ea) (v : Word) (s : State) : (afterAssign sz e v s).ssp = s.ssp := by
  simp [afterAssign]
@[simp] theorem afterUpdate_t (sz : Size) (e : Ea) (v : Word) (s : State) : (afterUpdate sz e v s).t = s.t := by
  simp [afterUpdate]
@[simp] theorem afterAssign_t (sz : Size) (e : Ea) (v : Word) (s : State) : (afterAssign sz e v s).t = s.t := by
  simp [afterAssign]
@[simp] theorem afterUpdate_sup (sz : Size) (e : Ea) (v : Word) (s : State) : (afterUpdate sz e v s).sup = s.sup := by
  simp [afterUpdate]
@[simp] theorem afterAssign_sup (sz : Size) (e : Ea) (v : Word) (s : State) : (afterAssign sz e v s).sup = s.sup := by
  simp [afterAssign]
@[simp] theorem afterUpdate_imask (sz : Size) (e : Ea) (v : Word) (s : State) : (afterUpdate sz e v s).imask = s.imask := by
  simp [afterUpdate]
@[simp] theorem afterAssign_imask (sz : Size) (e : Ea) (v : Word) (s : State) : (afterAssign sz e v s).imask = s.imask := by
  simp [afterAssign]
@[simp] theorem afterUpdate_ccr (sz : Size) (e : Ea) (v : Word) (s : State) : (afterUpdate sz e v s).ccr = s.ccr := by
  simp [afterUpdate]
@[simp] theorem afterAssign_ccr (sz : Size) (e : Ea) (v : Word) (s : State) : (afterAssign sz e v s).ccr = s.ccr := by
  simp [afterAssign]
@[simp] theorem afterUpdate_pendVec (sz : Size) (e : Ea) (v : Word) (s : State) : (afterUpdate sz e v s).pendVec = s.pendVec := by
  simp [afterUpdate]
@[simp] theorem afterAssign_pendVec (sz : Size) (e : Ea) (v : Word) (s : State) : (afterAssign sz e v s).pendVec = s.pendVec := by
  simp [afterAssign]
@[simp] theorem afterUpdate_tracePend (sz : Size) (e : Ea) (v : Word) (s : State) : (afterUpdate sz e v s).tracePend = s.tracePend := by
  simp [afterUpdate]
@[simp] theorem afterAssign_tracePend (sz : Size) (e : Ea) (v : Word) (s : State) : (afterAssign sz e v s).tracePend = s.tracePend := by
  simp [afterAssign]
@[simp] theorem afterUpdate_badAddr (sz : Size) (e : Ea) (v : Word) (s : State) : (afterUpdate sz e v s).badAddr = s.badAddr := by
  simp [afterUpdate]
@[simp] theorem afterAssign_badAddr (sz : Size) (e : Ea) (v : Word) (s : State) : (afterAssign sz e v s).badAddr = s.badAddr := by
  simp [afterAssign]
@[simp] theorem afterUpdate_badDir (sz : Size) (e : Ea) (v : Word) (s : State) : (afterUpdate sz e v s).badDir = s.badDir := by
  simp [afterUpdate]
@[simp] theorem afterAssign_badDir (sz : Size) (e : Ea) (v : Word) (s : State) : (afterAssign sz e v s).badDir = s.badDir := by
  simp [afterAssign]
@[simp] theorem afterUpdate_badS (sz : Size) (e : Ea) (v : Word) (s : State) : (afterUpdate sz e v s).badS = s.badS := by
  simp [afterUpdate]
@[simp] theorem afterAssign_badS (sz : Size) (e : Ea) (v : Word) (s : State) : (afterAssign sz e v s).badS = s.badS := by
  simp [afterAssign]
@[simp] theorem afterUpdate_badCtx (sz : Size) (e : Ea) (v : Word) (s : State) : (afterUpdate sz e v s).badCtx = s.badCtx := by
  simp [afterUpdate]
@[simp] theorem afterAssign_badCtx (sz : Size) (e : Ea) (v : Word) (s : State) : (afterAssign sz e v s).badCtx = s.badCtx := by
  simp [afterAssign]
@[simp] theorem afterUpdate_halted (sz : Size) (e : Ea) (v : Word) (s : State) : (afterUpdate sz e v s).halted = s.halted := by
  simp [afterUpdate]
@[simp] theorem afterAssign_halted (sz : Size) (e : Ea) (v : Word) (s : State) : (afterAssign sz e v s).halted = s.halted := by
  simp [afterAssign]
@[simp] theorem afterUpdate_ir (sz : Size) (e : Ea) (v : Word) (s : State) : (afterUpdate sz e v s).ir = s.ir := by
  simp [afterUpdate]
@[simp] theorem afterAssign_ir (sz : Size) (e : Ea) (v : Word) (s : State) : (afterAssign sz e v s).ir = s.ir := by
  simp [afterAssign]
@[simp] theorem afterUpdate_drawn (sz : Size) (e : Ea) (v : Word) (s : State) : (afterUpdate sz e v s).drawn = s.drawn := by
  simp [afterUpdate]
@[simp] theorem afterAssign_drawn (sz : Size) (e : Ea) (v : Word) (s : State) : (afterAssign sz e v s).drawn = s.drawn := by
  simp [afterAssign]
@[simp] theorem afterUpdate_config (sz : Size) (e : Ea) (v : Word) (s : State) : (afterUpdate sz e v s).config = s.config := by
  simp [afterUpdate]
@[simp] theorem afterAssign_config (sz : Size) (e : Ea) (v : Word) (s : State) : (afterAssign sz e v s).config = s.config := by
  simp [afterAssign]

/-! ### Operands -/

theorem resolve_ok {sz : Size} {e : Ea} {s : State} (h : wordsReady s (eaWords e) = true) :
    resolve sz e s = .ok (eaHandle sz e s) (eaAfter sz e s) := by
  unfold resolve
  simp only [M.get_bind]
  rw [M.bind_ok (fetchWords_ok h)]
  rfl

theorem readH_ok {sz : Size} {h : Handle} {s : State} (hr : handleReadable s.config sz h = true) :
    readH sz h s = .ok (handleValue sz h s) (handleAfterRead sz h s) := by
  cases h with
  | mem a => exact memRead_ok hr
  | data n => rfl
  | addr n => rfl

theorem writeH_ok {sz : Size} {h : Handle} {v : Word} {s : State} (hw : handleWritable s.config sz h = true) :
    writeH sz h v s = .ok () (handleAfterWrite sz h v s) := by
  cases h with
  | mem a => exact memWrite_ok hw
  | data n => rfl
  | addr n => rfl

theorem handleReadable_of_writable {c : Config} {sz : Size} {h : Handle} (hw : handleWritable c sz h = true) :
    handleReadable c sz h = true := by
  cases h with
  | mem a => exact (writable_iff.mp hw).1
  | data n => rfl
  | addr n => rfl

theorem operandReadable_iff {sz : Size} {e : Ea} {s : State} : operandReadable sz e s = true ↔
    wordsReady s (eaWords e) = true ∧ handleReadable s.config sz (eaHandle sz e s) = true := by
  simp [operandReadable]

theorem operandWritable_iff {sz : Size} {e : Ea} {s : State} : operandWritable sz e s = true ↔
    wordsReady s (eaWords e) = true ∧ handleWritable s.config sz (eaHandle sz e s) = true := by
  simp [operandWritable]

theorem readEa_ok {sz : Size} {e : Ea} {s : State} (h : operandReadable sz e s = true) :
    readEa sz e s = .ok (operandValue sz e s) (afterOperand sz e s) := by
  obtain ⟨h1, h2⟩ := operandReadable_iff.mp h
  unfold readEa
  rw [M.bind_ok (resolve_ok h1), readH_ok (by simpa using h2)]
  rfl

/-- The read of a read-modify-write (R155). -/
theorem readH_operand_ok {sz : Size} {e : Ea} {s : State} (h : operandWritable sz e s = true) :
    readH sz (eaHandle sz e s) (eaAfter sz e s) = .ok (operandValue sz e s) (afterOperand sz e s) := by
  obtain ⟨-, h2⟩ := operandWritable_iff.mp h
  rw [readH_ok (by simpa using handleReadable_of_writable h2)]
  rfl

/-- The write of a read-modify-write (R155). -/
theorem writeH_operand_ok {sz : Size} {e : Ea} {s : State} {v : Word} (h : operandWritable sz e s = true) :
    writeH sz (eaHandle sz e s) v (afterOperand sz e s) = .ok () (afterUpdate sz e v s) := by
  obtain ⟨-, h2⟩ := operandWritable_iff.mp h
  rw [writeH_ok (by simpa using h2)]
  rfl

/-- A write without a read (D24). -/
theorem writeH_assign_ok {sz : Size} {e : Ea} {s : State} {v : Word} (h : operandWritable sz e s = true) :
    writeH sz (eaHandle sz e s) v (eaAfter sz e s) = .ok () (afterAssign sz e v s) := by
  obtain ⟨-, h2⟩ := operandWritable_iff.mp h
  rw [writeH_ok (by simpa using h2)]
  rfl

theorem resolve_writable_ok {sz : Size} {e : Ea} {s : State} (h : operandWritable sz e s = true) :
    resolve sz e s = .ok (eaHandle sz e s) (eaAfter sz e s) := resolve_ok (operandWritable_iff.mp h).1

/-- A control form's address (R156). -/
theorem eaAddress_ok {e : Ea} {s : State} {a : Word} (hc : eaIsCtrl e = true) (hw : wordsReady s (eaWords e) = true)
    (ha : eaHandle .l e s = .mem a) : eaAddress e s = .ok a (s.afterWords (eaWords e)) := by
  have hs : eaAfter .l e s = s.afterWords (eaWords e) := by cases e <;> first | rfl | simp [eaIsCtrl] at hc
  have hr : resolve .l e s = .ok (.mem a) (s.afterWords (eaWords e)) := by rw [resolve_ok hw, ha, hs]
  simp only [eaAddress, hc, Bool.not_true, Bool.false_eq_true, if_false]
  rw [M.bind_ok hr]
  rfl

/-- Every control form designates memory. -/
theorem eaHandle_ctrl {sz : Size} {e : Ea} (s : State) (hc : eaIsCtrl e = true) : ∃ a, eaHandle sz e s = .mem a := by
  cases e <;> first | exact ⟨_, rfl⟩ | simp [eaIsCtrl] at hc

/-! ### The stack -/

theorem push_ok {sz : Size} {v : Word} {s : State} (h : pushable sz s = true) :
    push sz v s = .ok () (afterPush sz v s) := by
  unfold push
  simp only [M.modify_bind, M.get_bind, State.setA_areg_same]
  rw [memWrite_ok (by simpa [pushable, pushTo] using h)]
  rfl

theorem pop_ok {sz : Size} {s : State} (h : readable s.config sz (s.areg 7) = true) :
    pop sz s = .ok (s.loadValue sz (s.areg 7))
      ((s.afterLoad sz (s.areg 7)).setA 7 (s.areg 7 + BitVec.ofNat 32 (sizeBytes sz))) := by
  unfold pop
  simp only [M.get_bind]
  rw [M.bind_ok (memRead_ok h)]
  simp

/-! ### SetPC -/

theorem loadPc_even {a : Word} {s : State} (h : isOdd a = false) : loadPc a s = .ok () (s.setPc a) := by
  simp [loadPc, h]

theorem loadPc_odd {a : Word} {s : State} (h : isOdd a = true) :
    loadPc a s = .error .raised (afterAddressError a .read .instruction s) := by
  simp [loadPc, h, raiseAddress_apply]

theorem run_loadPc (a : Word) (s : State) : run (loadPc a) s = .next (afterSetPc a s) := by
  by_cases h : isOdd a = true
  · rw [run_raised (loadPc_odd h)]
    simp [afterSetPc, h]
  · simp only [Bool.not_eq_true] at h
    rw [run_ok (loadPc_even h)]
    simp [afterSetPc, h]

/-- A sequence whose first part goes through runs on from there. -/
theorem run_bind_ok {α : Type} {x : M α} {f : α → M Unit} {s t : State} {a : α} (h : x s = .ok a t) :
    run (x >>= f) s = run (f a) t := by
  simp [run, M.bind_ok h]

/-! ### The privilege check -/

theorem requireSupervisor_ok {s : State} (h : s.sup = true) : requireSupervisor s = .ok () s := by
  simp [requireSupervisor, h]

theorem requireSupervisor_user {s : State} (h : s.sup = false) :
    requireSupervisor s = .error .raised (afterRaise 8 s.rewindPc) := by
  simp [requireSupervisor, h, raise_apply]

end Sys2Proof.Machine
end

