-- ==== Sys2Proof/Laws/Frames.lean ====
section
/-! SUPPORT. What sequences of operations leave alone, said once: a relation between the state before and the state after
that every operation of a sequence keeps is kept by the sequence, whether it ends normally or by a raise. -/
namespace Sys2Proof.Machine

variable {R Q : State → State → Prop}

/-- From s, the sequence ends normally in a state that R relates to s, or by a raise in one that Q does. -/
def KeepsAt {α : Type} (R Q : State → State → Prop) (m : M α) (s : State) : Prop :=
  (∀ a t, m s = .ok a t → R s t) ∧ (∀ t, m s = .error .raised t → Q s t)

/-- From every state. -/
def Keeps {α : Type} (R Q : State → State → Prop) (m : M α) : Prop := ∀ s, KeepsAt R Q m s

theorem keepsAt_ok {α : Type} {m : M α} {s t : State} {a : α} (h : m s = .ok a t) (hR : R s t) : KeepsAt R Q m s := by
  refine ⟨fun b u h' => ?_, fun u h' => ?_⟩ <;> rw [h] at h' <;> cases h'
  exact hR

theorem keepsAt_raised {α : Type} {m : M α} {s t : State} (h : m s = .error .raised t) (hQ : Q s t) :
    KeepsAt R Q m s := by
  refine ⟨fun b u h' => ?_, fun u h' => ?_⟩ <;> rw [h] at h' <;> cases h'
  exact hQ

theorem keepsAt_fault {α : Type} {m : M α} {s t : State} {r : Fault} (h : m s = .error (.fault r) t) :
    KeepsAt R Q m s := by
  refine ⟨fun b u h' => ?_, fun u h' => ?_⟩ <;> rw [h] at h' <;> cases h'

theorem keepsAt_refusal {α : Type} {m : M α} {s t : State} {r : Refusal} (h : m s = .error (.refusal r) t) :
    KeepsAt R Q m s := by
  refine ⟨fun b u h' => ?_, fun u h' => ?_⟩ <;> rw [h] at h' <;> cases h'

/-- The relations that the operations which store nothing and write no named register keep, and that a raise of
AddressError ends in. -/
structure Stable (R Q : State → State → Prop) : Prop where
  refl    : ∀ s, R s s
  trans   : ∀ s t u, R s t → R t u → R s u
  before  : ∀ s t u, R s t → Q t u → Q s u
  config  : ∀ s t, R s t → t.config = s.config
  load    : ∀ sz a s, readable s.config sz a = true → R s (s.afterLoad sz a)
  pc      : ∀ a s, (isOdd s.pc = false → isOdd a = false) → R s (s.setPc a)
  addrErr : ∀ a d c s, Q s (afterAddressError a d c s)

theorem keepsAt_run {m : M Unit} {s t : State} (h : KeepsAt R Q m s) (hr : run m s = .next t) : R s t ∨ Q s t := by
  rcases run_next hr with h' | h'
  · exact .inl (h.1 _ _ h')
  · exact .inr (h.2 _ h')

theorem keepsAt_bind {α β : Type} (hS : Stable R Q) {x : M α} {f : α → M β} {s : State} (hx : KeepsAt R Q x s)
    (hf : ∀ a t, x s = .ok a t → t.config = s.config → KeepsAt R Q (f a) t) : KeepsAt R Q (x >>= f) s := by
  cases h : x s with
  | ok a t =>
    have hR := hx.1 a t h
    obtain ⟨h1, h2⟩ := hf a t h (hS.config _ _ hR)
    unfold KeepsAt
    rw [M.bind_ok h]
    exact ⟨fun b u hb => hS.trans _ _ _ hR (h1 b u hb), fun u hu => hS.before _ _ _ hR (h2 u hu)⟩
  | error e t =>
    unfold KeepsAt
    rw [M.bind_error h]
    refine ⟨fun _ _ hb => (by cases hb), fun u hu => ?_⟩
    cases hu
    exact hx.2 _ h

theorem keepsAt_get_bind {α : Type} {f : State → M α} {s : State} (h : KeepsAt R Q (f s) s) :
    KeepsAt R Q ((get : M State) >>= f) s := by
  unfold KeepsAt
  rw [M.get_bind]
  exact h

theorem keepsAt_modify_bind {α : Type} (hS : Stable R Q) {g : State → State} {f : Unit → M α} {s : State}
    (hg : R s (g s)) (h : KeepsAt R Q (f ()) (g s)) : KeepsAt R Q ((modify g : M Unit) >>= f) s := by
  refine keepsAt_bind hS (keepsAt_ok (M.modify_apply g s) hg) (fun a t ht _ => ?_)
  rw [M.modify_apply] at ht
  cases ht
  exact h

theorem keeps_bind {α β : Type} (hS : Stable R Q) {x : M α} {f : α → M β} (hx : Keeps R Q x)
    (hf : ∀ a, Keeps R Q (f a)) : Keeps R Q (x >>= f) := fun s => keepsAt_bind hS (hx s) (fun a t _ _ => hf a t)

theorem keeps_pure {α : Type} (hS : Stable R Q) (a : α) : Keeps R Q (pure a : M α) :=
  fun s => keepsAt_ok (M.pure_apply a s) (hS.refl s)

theorem keeps_modify {g : State → State} (h : ∀ s, R s (g s)) : Keeps R Q (modify g : M Unit) :=
  fun s => keepsAt_ok (M.modify_apply g s) (h s)

theorem keeps_ite {α : Type} {c : Prop} [Decidable c] {x y : M α} (hx : Keeps R Q x) (hy : Keeps R Q y) :
    Keeps R Q (if c then x else y) := by
  split
  · exact hx
  · exact hy

/-- `get` followed by a sequence that uses the state read. -/
theorem keeps_get_bind {α : Type} {f : State → M α} (h : ∀ u, Keeps R Q (f u)) : Keeps R Q ((get : M State) >>= f) := by
  intro s
  exact keepsAt_get_bind (h s s)

theorem keeps_raise {α : Type} {v : BitVec 8} (h : ∀ s, Q s (afterRaise v s)) : Keeps R Q (raise v : M α) :=
  fun s => keepsAt_raised (raise_apply v s) (h s)

theorem keeps_raiseIllegal {α : Type} {v : BitVec 8} (h : ∀ s, Q s (afterRaise v s.rewindPc)) :
    Keeps R Q (raiseIllegal v : M α) := fun s => keepsAt_raised (raiseIllegal_apply v s) (h s)

theorem keeps_memRead (hS : Stable R Q) (sz : Size) (a : Word) : Keeps R Q (memRead sz a) := by
  intro s
  rcases memRead_cases sz a s with ⟨hr, h⟩ | ⟨-, h⟩ | ⟨r, h⟩
  · exact keepsAt_ok h (hS.load sz a s hr)
  · exact keepsAt_raised h (hS.addrErr a _ _ s)
  · exact keepsAt_refusal h

theorem keepsAt_memWrite (hS : Stable R Q) {sz : Size} {a v : Word} {s : State}
    (hW : writable s.config sz a = true → R s (s.afterStore sz a v)) : KeepsAt R Q (memWrite sz a v) s := by
  rcases memWrite_cases sz a v s with ⟨hw, h⟩ | ⟨-, h⟩ | ⟨r, h⟩ | h
  · exact keepsAt_ok h (hW hw)
  · exact keepsAt_raised h (hS.addrErr a _ _ s)
  · exact keepsAt_refusal h
  · exact keepsAt_fault h

/-- Everything an instruction-stream read can answer. -/
theorem memFetch_cases (a : Word) (s : State) :
    memFetch a s = .ok (s.wordAt a) s ∨
    (isOdd a = true ∧ memFetch a s = .error .raised (afterAddressError a .read .instruction s)) ∨
    (∃ r, memFetch a s = .error (.refusal r) s) := by
  by_cases h1 : isOdd a = true
  · exact .inr (.inl ⟨h1, by simp [memFetch, h1, raiseAddress_apply]⟩)
  · by_cases h2 : oneRegion s.config (busAddr s.config a) 2 = true
    · by_cases h3 : regionAt s.config (busAddr s.config a) = .window
      · exact .inr (.inr ⟨.fetchFromWindow, by simp [memFetch, h1, h2, h3, refuse]⟩)
      · exact .inl (by simp [memFetch, h1, h2, h3])
    · exact .inr (.inr ⟨.regionStraddle, by simp [memFetch, h1, h2, refuse]⟩)

theorem keeps_memFetch (hS : Stable R Q) (a : Word) : Keeps R Q (memFetch a) := by
  intro s
  rcases memFetch_cases a s with h | ⟨-, h⟩ | ⟨r, h⟩
  · exact keepsAt_ok h (hS.refl s)
  · exact keepsAt_raised h (hS.addrErr a _ _ s)
  · exact keepsAt_refusal h

theorem isOdd_eq (a : Word) : isOdd a = decide (a.toNat % 2 = 1) := by
  simp [isOdd, BitVec.getLsbD, Nat.testBit_zero]

theorem isOdd_add_two (a : Word) : isOdd (a + 2) = isOdd a := by
  rw [isOdd_eq, isOdd_eq, decide_eq_decide, BitVec.toNat_add, show (2 : Word).toNat = 2 from rfl]
  omega

theorem isOdd_sub_two (a : Word) : isOdd (a - 2) = isOdd a := by
  rw [isOdd_eq, isOdd_eq, decide_eq_decide, BitVec.toNat_sub, show (2 : Word).toNat = 2 from rfl]
  omega

theorem keeps_fetchWord (hS : Stable R Q) : Keeps R Q fetchWord := by
  unfold fetchWord
  refine keeps_get_bind (fun u => keeps_bind hS (keeps_memFetch hS _) (fun w => ?_))
  exact keeps_bind hS (keeps_modify (fun s => hS.pc _ s (fun h => by rw [isOdd_add_two]; exact h)))
    (fun _ => keeps_pure hS _)

theorem keeps_fetchWords (hS : Stable R Q) (k : Nat) : Keeps R Q (fetchWords k) := by
  induction k with
  | zero => exact keeps_pure hS _
  | succ k ih => exact keeps_bind hS (keeps_fetchWord hS) (fun _ => ih)

theorem keeps_fetchImm (hS : Stable R Q) (sz : Size) : Keeps R Q (fetchImm sz) :=
  keeps_get_bind (fun _ => keeps_bind hS (keeps_fetchWords hS _) (fun _ => keeps_pure hS _))

theorem keeps_fetchBranchDisp (hS : Stable R Q) (d : Byte) : Keeps R Q (fetchBranchDisp d) :=
  keeps_get_bind (fun _ => keeps_bind hS (keeps_fetchWords hS _) (fun _ => keeps_pure hS _))

theorem keeps_loadPc (hS : Stable R Q) (a : Word) : Keeps R Q (loadPc a) := by
  intro s
  cases h : isOdd a with
  | true => exact keepsAt_raised (loadPc_odd h) (hS.addrErr a _ _ s)
  | false => exact keepsAt_ok (loadPc_even h) (hS.pc a s (fun _ => h))

theorem eaSideEffect_keeps (hS : Stable R Q) {sz : Size} {e : Ea} (hA : ∀ n ∈ eaStepped e, ∀ v s, R s (s.setA n v))
    (s : State) : R s (eaSideEffect sz e s) := by
  cases e with
  | post n => exact hA n (by simp [eaStepped]) _ s
  | pre n => exact hA n (by simp [eaStepped]) _ s
  | _ => exact hS.refl s

theorem keeps_resolve (hS : Stable R Q) {sz : Size} {e : Ea} (hA : ∀ n ∈ eaStepped e, ∀ v s, R s (s.setA n v)) :
    Keeps R Q (resolve sz e) :=
  keeps_get_bind (fun _ => keeps_bind hS (keeps_fetchWords hS _) (fun _ =>
    keeps_bind hS (keeps_modify (eaSideEffect_keeps hS hA)) (fun _ => keeps_pure hS _)))

theorem keeps_readH (hS : Stable R Q) (sz : Size) (h : Handle) : Keeps R Q (readH sz h) := by
  cases h with
  | mem a => exact keeps_memRead hS sz a
  | data n => exact keeps_get_bind (fun _ => keeps_pure hS _)
  | addr n => exact keeps_get_bind (fun _ => keeps_pure hS _)

theorem keeps_readEa (hS : Stable R Q) {sz : Size} {e : Ea} (hA : ∀ n ∈ eaStepped e, ∀ v s, R s (s.setA n v)) :
    Keeps R Q (readEa sz e) := keeps_bind hS (keeps_resolve hS hA) (fun h => keeps_readH hS sz h)

/-- A write through a handle, given that the register or the bytes it designates may be written. -/
theorem keepsAt_writeH (hS : Stable R Q) {sz : Size} {h : Handle} {v : Word} {s : State}
    (hw : handleWritable s.config sz h = true → R s (handleAfterWrite sz h v s)) : KeepsAt R Q (writeH sz h v) s := by
  cases h with
  | mem a => exact keepsAt_memWrite hS hw
  | data n => exact keepsAt_ok rfl (hw rfl)
  | addr n => exact keepsAt_ok rfl (hw rfl)

theorem resolve_value {sz : Size} {e : Ea} {s t : State} {h : Handle} (hr : resolve sz e s = .ok h t) :
    h = eaHandle sz e s := by
  unfold resolve at hr
  rw [M.get_bind] at hr
  cases hf : fetchWords (eaWords e) s with
  | ok _ u => rw [M.bind_ok hf, M.modify_bind, M.pure_apply] at hr; cases hr; rfl
  | error _ u => rw [M.bind_error hf] at hr; cases hr

theorem keeps_eaAddress (hS : Stable R Q) {e : Ea} (hc : eaIsCtrl e = true) : Keeps R Q (eaAddress e) := by
  intro s
  have hA : ∀ n ∈ eaStepped e, ∀ v s, R s (s.setA n v) := by
    cases e <;> simp [eaStepped] <;> simp [eaIsCtrl] at hc
  unfold eaAddress
  simp only [hc, Bool.not_true, Bool.false_eq_true, if_false]
  refine keepsAt_bind hS (keeps_resolve hS hA s) (fun h t ht _ => ?_)
  obtain ⟨a, ha⟩ := eaHandle_ctrl (sz := .l) s hc
  rw [resolve_value ht, ha]
  exact keeps_pure hS _ t

theorem keepsAt_push (hS : Stable R Q) {sz : Size} {v : Word} {s : State} (hA : ∀ w, R s (s.setA 7 w))
    (hW : ∀ u, u.config = s.config → writable u.config sz (pushTo sz s) = true →
      R u (u.afterStore sz (pushTo sz s) v)) : KeepsAt R Q (push sz v) s := by
  unfold push
  refine keepsAt_modify_bind hS (hA _) (keepsAt_get_bind ?_)
  rw [State.setA_areg_same]
  exact keepsAt_memWrite hS (hW _ rfl)

theorem keeps_pop (hS : Stable R Q) {sz : Size} (hA : ∀ w s, R s (s.setA 7 w)) : Keeps R Q (pop sz) :=
  keeps_get_bind (fun _ => keeps_bind hS (keeps_memRead hS _ _) (fun _ =>
    keeps_bind hS (keeps_modify (fun s => hA _ s)) (fun _ => keeps_pure hS _)))

theorem keeps_drawFree (h : ∀ k s, R s (s.setDrawn k)) : Keeps R Q drawFree := fun s => keepsAt_ok rfl (h _ s)

theorem keeps_putD {sz : Size} {n : Fin 8} {v : Word} (h : ∀ w s, R s (s.setD n w)) : Keeps R Q (putD sz n v) :=
  keeps_modify (fun s => h _ s)

theorem keeps_getD (hS : Stable R Q) (sz : Size) (n : Fin 8) : Keeps R Q (getD sz n) :=
  keeps_get_bind (fun _ => keeps_pure hS _)

theorem keeps_putFlags {f : Ccr → Ccr} (h : ∀ s, R s (s.setCcr (f s.ccr))) : Keeps R Q (putFlags f) := keeps_modify h

theorem keeps_requireSupervisor (hS : Stable R Q) (h : ∀ s, s.sup = false → Q s (afterRaise 8 s.rewindPc)) :
    Keeps R Q requireSupervisor := by
  intro s
  cases hs : s.sup with
  | true => exact keepsAt_ok (requireSupervisor_ok hs) (hS.refl s)
  | false => exact keepsAt_raised (requireSupervisor_user hs) (h s hs)

theorem transferUp_zero (sz : Size) (a : Word) : transferUp sz a 0 = a := by simp [transferUp]

theorem transferUp_succ (sz : Size) (a : Word) (k : Nat) :
    transferUp sz (a + BitVec.ofNat 32 (sizeBytes sz)) k = transferUp sz a (k + 1) := by
  unfold transferUp
  rw [BitVec.add_assoc, ← BitVec.ofNat_add, Nat.mul_add, Nat.mul_one, Nat.add_comm]

theorem transferDown_zero (sz : Size) (a : Word) : transferDown sz a 0 = a - BitVec.ofNat 32 (sizeBytes sz) := by
  simp [transferDown]

theorem transferDown_succ (sz : Size) (a : Word) (k : Nat) :
    transferDown sz (a - BitVec.ofNat 32 (sizeBytes sz)) k = transferDown sz a (k + 1) := by
  unfold transferDown
  rw [Nat.mul_add _ (k + 1) 1, Nat.mul_one, Nat.add_comm (sizeBytes sz * (k + 1)), BitVec.ofNat_add]
  simp only [BitVec.sub_eq_add_neg, BitVec.neg_add, BitVec.add_assoc]

theorem keepsAt_storeRegs (hS : Stable R Q) (sz : Size) (l : List (Fin 16)) (a : Word) (s : State)
    (hW : ∀ k < l.length, ∀ v u, u.config = s.config → writable u.config sz (transferUp sz a k) = true →
      R u (u.afterStore sz (transferUp sz a k) v)) : KeepsAt R Q (storeRegs sz l a) s := by
  induction l generalizing a s with
  | nil => exact keeps_pure hS _ s
  | cons i rest ih =>
    refine keepsAt_get_bind (keepsAt_bind hS (keepsAt_memWrite hS (fun h => ?_)) (fun _ t _ ht => ih _ t ?_))
    · have := hW 0 (by simp) (trunc sz (s.xreg i)) s rfl
      rw [transferUp_zero] at this
      exact this h
    · intro k hk v u hu h
      rw [transferUp_succ] at h ⊢
      exact hW (k + 1) (by simpa using hk) v u (hu.trans ht) h

theorem keepsAt_storeRegsDown (hS : Stable R Q) (sz : Size) (l : List (Fin 16)) (a : Word) (s : State)
    (hW : ∀ k < l.length, ∀ v u, u.config = s.config → writable u.config sz (transferDown sz a k) = true →
      R u (u.afterStore sz (transferDown sz a k) v)) : KeepsAt R Q (storeRegsDown sz l a) s := by
  induction l generalizing a s with
  | nil => exact keeps_pure hS _ s
  | cons i rest ih =>
    refine keepsAt_get_bind (keepsAt_bind hS (keepsAt_memWrite hS (fun h => ?_)) (fun _ t _ ht => ih _ t ?_))
    · have := hW 0 (by simp) (trunc sz (s.xreg i)) s rfl
      rw [transferDown_zero] at this
      exact this h
    · intro k hk v u hu h
      rw [transferDown_succ] at h ⊢
      exact hW (k + 1) (by simpa using hk) v u (hu.trans ht) h

theorem keeps_loadRegs (hS : Stable R Q) (sz : Size) (l : List (Fin 16)) (hX : ∀ i ∈ l, ∀ v s, R s (s.setX i v))
    (a : Word) : Keeps R Q (loadRegs sz l a) := by
  induction l generalizing a with
  | nil => exact keeps_pure hS _
  | cons i rest ih =>
    refine keeps_bind hS (keeps_memRead hS _ _) (fun v => keeps_bind hS (keeps_modify (fun s => ?_)) (fun _ => ?_))
    · exact hX i (by simp) _ s
    · exact ih (fun j hj => hX j (by simp [hj])) _

end Sys2Proof.Machine
end

