-- ==== Sys2Proof/Laws/Ram.lean ====
section
/-! SUPPORT. Accesses and pushes whose bytes are all in RAM: what they answer in terms of memory alone. -/
namespace Sys2Proof.Machine

theorem inRam_readable {c : Config} {sz : Size} {a : Word} (h : inRam c sz a = true) (ha : aligned sz a = true) :
    readable c sz a = true := by
  simp only [inRam, Bool.and_eq_true] at h
  exact readable_iff.mpr ⟨ha, h.1⟩

theorem inRam_region {c : Config} {sz : Size} {a : Word} (h : inRam c sz a = true) :
    regionAt c (busAddr c a) = .ram := by
  simp only [inRam, Bool.and_eq_true, decide_eq_true_eq] at h
  exact h.2

theorem loadValue_ram {s : State} {sz : Size} {a : Word} (h : inRam s.config sz a = true) :
    s.loadValue sz a = Memory.load s.mem sz (busAddr s.config a) := by
  simp [State.loadValue, inRam_region h]

theorem afterLoad_ram {s : State} {sz : Size} {a : Word} (h : inRam s.config sz a = true) : s.afterLoad sz a = s := by
  simp [State.afterLoad, inRam_region h]

theorem afterStore_ram {s : State} {sz : Size} {a v : Word} (h : inRam s.config sz a = true) :
    s.afterStore sz a v = s.setMem (Memory.store s.mem sz (busAddr s.config a) v) := by
  simp [State.afterStore, inRam_region h]

theorem memRead_ram {s : State} {sz : Size} {a : Word} (h : inRam s.config sz a = true) (ha : aligned sz a = true) :
    memRead sz a s = .ok (Memory.load s.mem sz (busAddr s.config a)) s := by
  rw [memRead_ok (inRam_readable h ha), loadValue_ram h, afterLoad_ram h]

theorem memWrite_ram {s : State} {sz : Size} {a v : Word} (h : inRam s.config sz a = true) (ha : aligned sz a = true)
    (hg : guardFree s.config (busAddr s.config a) = true) :
    memWrite sz a v s = .ok () (s.setMem (Memory.store s.mem sz (busAddr s.config a) v)) := by
  rw [memWrite_ok (writable_iff.mpr ⟨inRam_readable h ha, hg⟩), afterStore_ram h]

/-- A push whose bytes are in RAM, at an even address. -/
theorem push_ram {s : State} {sz : Size} {v sp : Word} (hsp : sp = s.areg 7 - BitVec.ofNat 32 (sizeBytes sz))
    (h : inRam s.config sz sp = true) (ha : isOdd sp = false) (hg : guardFree s.config (busAddr s.config sp) = true) :
    push sz v s = .ok () ((s.setA 7 sp).setMem (Memory.store s.mem sz (busAddr s.config sp) v)) := by
  unfold push
  rw [M.modify_bind, M.get_bind, State.setA_areg_same, ← hsp]
  exact memWrite_ram (s := s.setA 7 sp) h (by simp [aligned, ha]) hg

/-! ### Even and odd addresses -/

/-- Moving an address by an even amount keeps its parity. -/
theorem isOdd_sub_even {a b : Word} (hb : b.toNat % 2 = 0) : isOdd (a - b) = isOdd a := by
  rw [isOdd_eq, isOdd_eq, decide_eq_decide, BitVec.toNat_sub]
  have := b.isLt
  omega

/-- A vector's slot is at an even address. -/
theorem isOdd_vectorSlot (v : BitVec 8) : isOdd (vectorSlot v) = false := by
  rw [isOdd_eq, decide_eq_false_iff_not, vectorSlot, BitVec.toNat_ofNat]
  omega

end Sys2Proof.Machine
end

