-- ==== Sys2Proof/Laws/Status.lean ====
section
/-! SUPPORT. The status register: what the mode switch, SetSR and SetCCR leave alone and what GetSR reads. -/
namespace Sys2Proof.Machine

variable (s : State)

/-! ### The mode switch -/

@[simp] theorem State.switchMode_d (b : Bool) : (s.switchMode b).d = s.d := by
  unfold State.switchMode; split <;> [rfl; (split <;> rfl)]
@[simp] theorem State.switchMode_pc (b : Bool) : (s.switchMode b).pc = s.pc := by
  unfold State.switchMode; split <;> [rfl; (split <;> rfl)]
@[simp] theorem State.switchMode_pendVec (b : Bool) : (s.switchMode b).pendVec = s.pendVec := by
  unfold State.switchMode; split <;> [rfl; (split <;> rfl)]
@[simp] theorem State.switchMode_ipl (b : Bool) : (s.switchMode b).ipl = s.ipl := by
  unfold State.switchMode; split <;> [rfl; (split <;> rfl)]
@[simp] theorem State.switchMode_tracePend (b : Bool) : (s.switchMode b).tracePend = s.tracePend := by
  unfold State.switchMode; split <;> [rfl; (split <;> rfl)]
@[simp] theorem State.switchMode_badAddr (b : Bool) : (s.switchMode b).badAddr = s.badAddr := by
  unfold State.switchMode; split <;> [rfl; (split <;> rfl)]
@[simp] theorem State.switchMode_badDir (b : Bool) : (s.switchMode b).badDir = s.badDir := by
  unfold State.switchMode; split <;> [rfl; (split <;> rfl)]
@[simp] theorem State.switchMode_badS (b : Bool) : (s.switchMode b).badS = s.badS := by
  unfold State.switchMode; split <;> [rfl; (split <;> rfl)]
@[simp] theorem State.switchMode_badCtx (b : Bool) : (s.switchMode b).badCtx = s.badCtx := by
  unfold State.switchMode; split <;> [rfl; (split <;> rfl)]
@[simp] theorem State.switchMode_budget (b : Bool) : (s.switchMode b).budget = s.budget := by
  unfold State.switchMode; split <;> [rfl; (split <;> rfl)]
@[simp] theorem State.switchMode_budgetSaved (b : Bool) : (s.switchMode b).budgetSaved = s.budgetSaved := by
  unfold State.switchMode; split <;> [rfl; (split <;> rfl)]
@[simp] theorem State.switchMode_attention (b : Bool) : (s.switchMode b).attention = s.attention := by
  unfold State.switchMode; split <;> [rfl; (split <;> rfl)]
@[simp] theorem State.switchMode_halted (b : Bool) : (s.switchMode b).halted = s.halted := by
  unfold State.switchMode; split <;> [rfl; (split <;> rfl)]
@[simp] theorem State.switchMode_ir (b : Bool) : (s.switchMode b).ir = s.ir := by
  unfold State.switchMode; split <;> [rfl; (split <;> rfl)]
@[simp] theorem State.switchMode_mem (b : Bool) : (s.switchMode b).mem = s.mem := by
  unfold State.switchMode; split <;> [rfl; (split <;> rfl)]
@[simp] theorem State.switchMode_devLog (b : Bool) : (s.switchMode b).devLog = s.devLog := by
  unfold State.switchMode; split <;> [rfl; (split <;> rfl)]
@[simp] theorem State.switchMode_drawn (b : Bool) : (s.switchMode b).drawn = s.drawn := by
  unfold State.switchMode; split <;> [rfl; (split <;> rfl)]
@[simp] theorem State.switchMode_config (b : Bool) : (s.switchMode b).config = s.config := by
  unfold State.switchMode; split <;> [rfl; (split <;> rfl)]
@[simp] theorem State.switchMode_t (b : Bool) : (s.switchMode b).t = s.t := by
  unfold State.switchMode; split <;> [rfl; (split <;> rfl)]
@[simp] theorem State.switchMode_imask (b : Bool) : (s.switchMode b).imask = s.imask := by
  unfold State.switchMode; split <;> [rfl; (split <;> rfl)]
@[simp] theorem State.switchMode_ccr (b : Bool) : (s.switchMode b).ccr = s.ccr := by
  unfold State.switchMode; split <;> [rfl; (split <;> rfl)]
@[simp] theorem State.switchMode_dreg (b : Bool) (n : Fin 8) : (s.switchMode b).dreg n = s.dreg n := by
  unfold State.dreg; rw [State.switchMode_d]
@[simp] theorem State.switchMode_sup (b : Bool) : (s.switchMode b).sup = b := by
  unfold State.switchMode
  split
  · rename_i h; exact h.symm
  · split <;> rfl
theorem State.switchMode_same {b : Bool} (h : b = s.sup) : s.switchMode b = s := by simp [State.switchMode, h]
theorem State.switchMode_toUser (h : s.sup = true) :
    s.switchMode false = ((s.setSsp (s.areg 7)).setA 7 s.usp).setSup false := by simp [State.switchMode, h]
theorem State.switchMode_toSupervisor (h : s.sup = false) :
    s.switchMode true = ((s.setUsp (s.areg 7)).setA 7 s.ssp).setSup true := by simp [State.switchMode, h]
theorem State.switchMode_areg_other {b : Bool} {n : Fin 8} (h : n ≠ 7) : (s.switchMode b).areg n = s.areg n := by
  unfold State.switchMode
  split
  · rfl
  · split <;> simp [State.setA_areg, h]

/-! ### SetSR -/

@[simp] theorem State.putSr_d (v : Half) : (s.putSr v).d = s.d := by simp [State.putSr]
@[simp] theorem State.putSr_pc (v : Half) : (s.putSr v).pc = s.pc := by simp [State.putSr]
@[simp] theorem State.putSr_pendVec (v : Half) : (s.putSr v).pendVec = s.pendVec := by simp [State.putSr]
@[simp] theorem State.putSr_ipl (v : Half) : (s.putSr v).ipl = s.ipl := by simp [State.putSr]
@[simp] theorem State.putSr_tracePend (v : Half) : (s.putSr v).tracePend = s.tracePend := by simp [State.putSr]
@[simp] theorem State.putSr_badAddr (v : Half) : (s.putSr v).badAddr = s.badAddr := by simp [State.putSr]
@[simp] theorem State.putSr_badDir (v : Half) : (s.putSr v).badDir = s.badDir := by simp [State.putSr]
@[simp] theorem State.putSr_badS (v : Half) : (s.putSr v).badS = s.badS := by simp [State.putSr]
@[simp] theorem State.putSr_badCtx (v : Half) : (s.putSr v).badCtx = s.badCtx := by simp [State.putSr]
@[simp] theorem State.putSr_budget (v : Half) : (s.putSr v).budget = s.budget := by simp [State.putSr]
@[simp] theorem State.putSr_budgetSaved (v : Half) : (s.putSr v).budgetSaved = s.budgetSaved := by simp [State.putSr]
@[simp] theorem State.putSr_attention (v : Half) : (s.putSr v).attention = s.attention := by simp [State.putSr]
@[simp] theorem State.putSr_halted (v : Half) : (s.putSr v).halted = s.halted := by simp [State.putSr]
@[simp] theorem State.putSr_ir (v : Half) : (s.putSr v).ir = s.ir := by simp [State.putSr]
@[simp] theorem State.putSr_mem (v : Half) : (s.putSr v).mem = s.mem := by simp [State.putSr]
@[simp] theorem State.putSr_devLog (v : Half) : (s.putSr v).devLog = s.devLog := by simp [State.putSr]
@[simp] theorem State.putSr_drawn (v : Half) : (s.putSr v).drawn = s.drawn := by simp [State.putSr]
@[simp] theorem State.putSr_config (v : Half) : (s.putSr v).config = s.config := by simp [State.putSr]
@[simp] theorem State.putSr_dreg (v : Half) (n : Fin 8) : (s.putSr v).dreg n = s.dreg n := by simp [State.putSr]
@[simp] theorem State.putSr_t (v : Half) : (s.putSr v).t = v.getLsbD 15 := by simp [State.putSr]
@[simp] theorem State.putSr_sup (v : Half) : (s.putSr v).sup = v.getLsbD 13 := by simp [State.putSr]
@[simp] theorem State.putSr_imask (v : Half) : (s.putSr v).imask = v.extractLsb' 8 3 := by simp [State.putSr]
@[simp] theorem State.putSr_ccr (v : Half) : (s.putSr v).ccr = ccrOf v := by simp [State.putSr]
@[simp] theorem State.putSr_a (v : Half) : (s.putSr v).a = (s.switchMode (v.getLsbD 13)).a := rfl
@[simp] theorem State.putSr_usp (v : Half) : (s.putSr v).usp = (s.switchMode (v.getLsbD 13)).usp := rfl
@[simp] theorem State.putSr_ssp (v : Half) : (s.putSr v).ssp = (s.switchMode (v.getLsbD 13)).ssp := rfl
@[simp] theorem State.putSr_areg (v : Half) (n : Fin 8) : (s.putSr v).areg n = (s.switchMode (v.getLsbD 13)).areg n := rfl

/-! ### SetCCR -/

@[simp] theorem State.putCcr_d (v : Half) : (s.putCcr v).d = s.d := rfl
@[simp] theorem State.putCcr_pc (v : Half) : (s.putCcr v).pc = s.pc := rfl
@[simp] theorem State.putCcr_pendVec (v : Half) : (s.putCcr v).pendVec = s.pendVec := rfl
@[simp] theorem State.putCcr_ipl (v : Half) : (s.putCcr v).ipl = s.ipl := rfl
@[simp] theorem State.putCcr_tracePend (v : Half) : (s.putCcr v).tracePend = s.tracePend := rfl
@[simp] theorem State.putCcr_badAddr (v : Half) : (s.putCcr v).badAddr = s.badAddr := rfl
@[simp] theorem State.putCcr_badDir (v : Half) : (s.putCcr v).badDir = s.badDir := rfl
@[simp] theorem State.putCcr_badS (v : Half) : (s.putCcr v).badS = s.badS := rfl
@[simp] theorem State.putCcr_badCtx (v : Half) : (s.putCcr v).badCtx = s.badCtx := rfl
@[simp] theorem State.putCcr_budget (v : Half) : (s.putCcr v).budget = s.budget := rfl
@[simp] theorem State.putCcr_budgetSaved (v : Half) : (s.putCcr v).budgetSaved = s.budgetSaved := rfl
@[simp] theorem State.putCcr_attention (v : Half) : (s.putCcr v).attention = s.attention := rfl
@[simp] theorem State.putCcr_halted (v : Half) : (s.putCcr v).halted = s.halted := rfl
@[simp] theorem State.putCcr_ir (v : Half) : (s.putCcr v).ir = s.ir := rfl
@[simp] theorem State.putCcr_mem (v : Half) : (s.putCcr v).mem = s.mem := rfl
@[simp] theorem State.putCcr_devLog (v : Half) : (s.putCcr v).devLog = s.devLog := rfl
@[simp] theorem State.putCcr_drawn (v : Half) : (s.putCcr v).drawn = s.drawn := rfl
@[simp] theorem State.putCcr_config (v : Half) : (s.putCcr v).config = s.config := rfl
@[simp] theorem State.putCcr_t (v : Half) : (s.putCcr v).t = s.t := rfl
@[simp] theorem State.putCcr_imask (v : Half) : (s.putCcr v).imask = s.imask := rfl
@[simp] theorem State.putCcr_sup (v : Half) : (s.putCcr v).sup = s.sup := rfl
@[simp] theorem State.putCcr_a (v : Half) : (s.putCcr v).a = s.a := rfl
@[simp] theorem State.putCcr_usp (v : Half) : (s.putCcr v).usp = s.usp := rfl
@[simp] theorem State.putCcr_ssp (v : Half) : (s.putCcr v).ssp = s.ssp := rfl
@[simp] theorem State.putCcr_ccr (v : Half) : (s.putCcr v).ccr = ccrOf v := rfl
@[simp] theorem State.putCcr_dreg (v : Half) (n : Fin 8) : (s.putCcr v).dreg n = s.dreg n := rfl
@[simp] theorem State.putCcr_areg (v : Half) (n : Fin 8) : (s.putCcr v).areg n = s.areg n := rfl

/-! ### GetSR -/

/-- GetSR depends on T, S, I and the flags alone. -/
theorem State.getSr_congr {s t : State} (h1 : t.t = s.t) (h2 : t.sup = s.sup) (h3 : t.imask = s.imask)
    (h4 : t.ccr = s.ccr) : t.getSr = s.getSr := by simp [State.getSr, h1, h2, h3, h4]

/-- The bits of GetSR (R30). -/
theorem State.getSr_bit (k : Nat) (hk : k < 16) : s.getSr.getLsbD k =
    if k = 15 then s.t else if k = 13 then s.sup else if 8 ≤ k ∧ k < 11 then s.imask.getLsbD (k - 8)
    else if k = 4 then s.ccr.x else if k = 3 then s.ccr.n else if k = 2 then s.ccr.z else if k = 1 then s.ccr.v
    else if k = 0 then s.ccr.c else false := by
  unfold State.getSr ccrBits
  simp only [BitVec.getLsbD_append]
  interval_cases k <;> simp

end Sys2Proof.Machine
end

