-- ==== Sys2Proof/Laws/Delivery.lean ====
section
/-! SUPPORT. The delivery of an exception: what entering the handler changes, and the delivery with its stack in RAM up to
the read of the vector. -/
namespace Sys2Proof.Machine

/-! ### Entering the handler (R420, R421) -/

@[simp] theorem State.enterHandler_config (l : Option (BitVec 3)) (s : State) : (s.enterHandler l).config = s.config := by
  cases l <;> simp [State.enterHandler]
@[simp] theorem State.enterHandler_mem (l : Option (BitVec 3)) (s : State) : (s.enterHandler l).mem = s.mem := by
  cases l <;> simp [State.enterHandler]
@[simp] theorem State.enterHandler_pc (l : Option (BitVec 3)) (s : State) : (s.enterHandler l).pc = s.pc := by
  cases l <;> simp [State.enterHandler]
@[simp] theorem State.enterHandler_d (l : Option (BitVec 3)) (s : State) : (s.enterHandler l).d = s.d := by
  cases l <;> simp [State.enterHandler]
@[simp] theorem State.enterHandler_ccr (l : Option (BitVec 3)) (s : State) : (s.enterHandler l).ccr = s.ccr := by
  cases l <;> simp [State.enterHandler]
@[simp] theorem State.enterHandler_sup (l : Option (BitVec 3)) (s : State) : (s.enterHandler l).sup = true := by
  cases l <;> simp [State.enterHandler]
@[simp] theorem State.enterHandler_t (l : Option (BitVec 3)) (s : State) : (s.enterHandler l).t = false := by
  cases l <;> simp [State.enterHandler]
@[simp] theorem State.enterHandler_halted (l : Option (BitVec 3)) (s : State) : (s.enterHandler l).halted = false := by
  cases l <;> simp [State.enterHandler]
@[simp] theorem State.enterHandler_pendVec (l : Option (BitVec 3)) (s : State) : (s.enterHandler l).pendVec = s.pendVec := by
  cases l <;> simp [State.enterHandler]
@[simp] theorem State.enterHandler_tracePend (l : Option (BitVec 3)) (s : State) : (s.enterHandler l).tracePend = s.tracePend := by
  cases l <;> simp [State.enterHandler]
@[simp] theorem State.enterHandler_ipl (l : Option (BitVec 3)) (s : State) : (s.enterHandler l).ipl = s.ipl := by
  cases l <;> simp [State.enterHandler]
@[simp] theorem State.enterHandler_ir (l : Option (BitVec 3)) (s : State) : (s.enterHandler l).ir = s.ir := by
  cases l <;> simp [State.enterHandler]
@[simp] theorem State.enterHandler_budget (l : Option (BitVec 3)) (s : State) : (s.enterHandler l).budget = s.budget := by
  cases l <;> simp [State.enterHandler]
@[simp] theorem State.enterHandler_budgetSaved (l : Option (BitVec 3)) (s : State) : (s.enterHandler l).budgetSaved = s.budgetSaved := by
  cases l <;> simp [State.enterHandler]
@[simp] theorem State.enterHandler_attention (l : Option (BitVec 3)) (s : State) : (s.enterHandler l).attention = s.attention := by
  cases l <;> simp [State.enterHandler]
@[simp] theorem State.enterHandler_badAddr (l : Option (BitVec 3)) (s : State) : (s.enterHandler l).badAddr = s.badAddr := by
  cases l <;> simp [State.enterHandler]
@[simp] theorem State.enterHandler_badDir (l : Option (BitVec 3)) (s : State) : (s.enterHandler l).badDir = s.badDir := by
  cases l <;> simp [State.enterHandler]
@[simp] theorem State.enterHandler_badS (l : Option (BitVec 3)) (s : State) : (s.enterHandler l).badS = s.badS := by
  cases l <;> simp [State.enterHandler]
@[simp] theorem State.enterHandler_badCtx (l : Option (BitVec 3)) (s : State) : (s.enterHandler l).badCtx = s.badCtx := by
  cases l <;> simp [State.enterHandler]
@[simp] theorem State.enterHandler_devLog (l : Option (BitVec 3)) (s : State) : (s.enterHandler l).devLog = s.devLog := by
  cases l <;> simp [State.enterHandler]
@[simp] theorem State.enterHandler_drawn (l : Option (BitVec 3)) (s : State) : (s.enterHandler l).drawn = s.drawn := by
  cases l <;> simp [State.enterHandler]

theorem State.enterHandler_imask (l : Option (BitVec 3)) (s : State) : (s.enterHandler l).imask = l.getD s.imask := by
  cases l <;> simp [State.enterHandler]

/-- A7 in the handler is the supervisor stack pointer. -/
theorem State.enterHandler_areg_seven (l : Option (BitVec 3)) (s : State) : (s.enterHandler l).areg 7 = frameBase s := by
  have h : (((s.setHalted false).switchMode true).setT false).areg 7 = frameBase s := by
    unfold frameBase
    cases hs : s.sup with
    | true => rw [State.switchMode_same _ (by simp [hs])]; rfl
    | false => rw [State.switchMode_toSupervisor _ (by simpa using hs)]; simp
  cases l <;> simpa [State.enterHandler] using h

/-- The user stack pointer of a delivery from user mode is saved. -/
theorem State.enterHandler_usp (l : Option (BitVec 3)) (s : State) :
    (s.enterHandler l).usp = if s.sup then s.usp else s.areg 7 := by
  have h : (((s.setHalted false).switchMode true).setT false).usp = if s.sup then s.usp else s.areg 7 := by
    cases hs : s.sup with
    | true => rw [State.switchMode_same _ (by simp [hs])]; rfl
    | false => rw [State.switchMode_toSupervisor _ (by simpa using hs)]; rfl
  cases l <;> simpa [State.enterHandler] using h

theorem State.enterHandler_areg_other (l : Option (BitVec 3)) (s : State) {n : Fin 8} (h : n ≠ 7) :
    (s.enterHandler l).areg n = s.areg n := by
  cases l <;> simp [State.enterHandler, State.switchMode_areg_other _ h]

/-! ### The six-byte frame (R422) -/

/-- Memory after the six-byte frame has been pushed. -/
def frameMemory (s : State) : List Host.Cell :=
  Memory.store (Memory.store s.mem .l (busAddr s.config (frameBase s - 4)) s.pc) .w (busAddr s.config (frameBase s - 6))
    (s.getSr.setWidth 32)

/-- The state after the six-byte frame has been pushed. -/
def afterFrame (l : Option (BitVec 3)) (s : State) : State :=
  ((s.enterHandler l).setA 7 (frameBase s - 6)).setMem (frameMemory s)

@[simp] theorem afterFrame_config (l : Option (BitVec 3)) (s : State) : (afterFrame l s).config = s.config := by
  simp [afterFrame]
@[simp] theorem afterFrame_mem (l : Option (BitVec 3)) (s : State) : (afterFrame l s).mem = frameMemory s := rfl
@[simp] theorem afterFrame_sup (l : Option (BitVec 3)) (s : State) : (afterFrame l s).sup = true := by simp [afterFrame]
@[simp] theorem afterFrame_pc (l : Option (BitVec 3)) (s : State) : (afterFrame l s).pc = s.pc := by simp [afterFrame]
@[simp] theorem afterFrame_areg_seven (l : Option (BitVec 3)) (s : State) : (afterFrame l s).areg 7 = frameBase s - 6 := by
  simp [afterFrame]

/-- A delivery with the frame in RAM has pushed it when the vector is read. -/
theorem deliver_ram (v : BitVec 8) (l : Option (BitVec 3)) (s : State) (h0 : isOdd (frameBase s) = false)
    (h1 : inRam s.config .l (frameBase s - 4) = true)
    (h2 : guardFree s.config (busAddr s.config (frameBase s - 4)) = true)
    (h3 : inRam s.config .w (frameBase s - 6) = true)
    (h4 : guardFree s.config (busAddr s.config (frameBase s - 6)) = true) :
    deliver v l s = ((if v = 3 then pushBadAccess else pure ()) >>= fun _ => memRead .l (vectorSlot v) >>= loadPc)
      (afterFrame l s) := by
  unfold deliver
  rw [M.get_bind, M.modify_bind, M.get_bind]
  have hp1 := push_ram (s := s.enterHandler l) (sz := .l) (v := (s.enterHandler l).pc) (sp := frameBase s - 4)
    (by rw [State.enterHandler_areg_seven]; rfl) (by rw [State.enterHandler_config]; exact h1)
    (by rw [isOdd_sub_even (by decide)]; exact h0) (by rw [State.enterHandler_config]; exact h2)
  rw [M.bind_ok hp1]
  simp only [State.enterHandler_mem, State.enterHandler_config, State.enterHandler_pc]
  generalize hm : Memory.store s.mem .l (busAddr s.config (frameBase s - 4)) s.pc = m1
  have h46 : frameBase s - 6 = frameBase s - 4 - 2 := by rw [BitVec.sub_sub]; rfl
  have hp2 := push_ram (s := ((s.enterHandler l).setA 7 (frameBase s - 4)).setMem m1) (sz := .w)
    (v := s.getSr.setWidth 32) (sp := frameBase s - 6) (by rw [State.setMem_areg, State.setA_areg_same, h46]; rfl)
    (by simpa using h3) (by rw [isOdd_sub_even (by decide)]; exact h0) (by simpa using h4)
  rw [M.bind_ok hp2]
  have he : ((((s.enterHandler l).setA 7 (frameBase s - 4)).setMem m1).setA 7 (frameBase s - 6)).setMem
      (Memory.store (((s.enterHandler l).setA 7 (frameBase s - 4)).setMem m1).mem .w
        (busAddr (((s.enterHandler l).setA 7 (frameBase s - 4)).setMem m1).config (frameBase s - 6))
        (s.getSr.setWidth 32)) = afterFrame l s := by
    simp only [State.setMem_mem, State.setMem_config, State.setA_config, State.enterHandler_config]
    unfold afterFrame frameMemory
    rw [hm]
    show (((s.enterHandler l).setA 7 _).setA 7 _).setMem _ = _
    rw [State.setA_setA]
  rw [he]
  by_cases hv : v = 3
  · rw [if_pos hv, if_pos hv]
  · rw [if_neg hv, if_neg hv]
    rfl

end Sys2Proof.Machine
end

