-- ==== Sys2Proof/Laws/Shapes.lean ====
section
/-! SUPPORT. What an operation answered, read off from the fact that it went through: the converse of the lemmas of
Laws/Operands, without their hypotheses. -/
namespace Sys2Proof.Machine

/-- A bind that goes through: its first part did. -/
theorem M.of_bind_ok {α β : Type} {x : M α} {f : α → M β} {s u : State} {b : β} (h : (x >>= f) s = .ok b u) :
    ∃ a t, x s = .ok a t ∧ f a t = .ok b u := by
  cases hx : x s with
  | ok a t => rw [M.bind_ok hx] at h; exact ⟨a, t, rfl, h⟩
  | error e t => rw [M.bind_error hx] at h; cases h

theorem memRead_shape {sz : Size} {a v : Word} {s t : State} (h : memRead sz a s = .ok v t) :
    v = s.loadValue sz a ∧ t = s.afterLoad sz a := by
  rcases memRead_cases sz a s with ⟨-, h'⟩ | ⟨-, h'⟩ | ⟨r, h'⟩ <;> rw [h'] at h <;> cases h
  exact ⟨rfl, rfl⟩

theorem fetchWord_shape {w : Half} {s t : State} (h : fetchWord s = .ok w t) :
    w = s.streamWord 0 ∧ t = s.afterWords 1 := by
  unfold fetchWord at h
  rw [M.get_bind] at h
  obtain ⟨w', u, h1, h2⟩ := M.of_bind_ok h
  rcases memFetch_cases s.pc s with h' | ⟨-, h'⟩ | ⟨r, h'⟩ <;> rw [h'] at h1 <;> cases h1
  rw [M.modify_bind, M.pure_apply] at h2
  cases h2
  exact ⟨by simp [State.streamWord], rfl⟩

theorem fetchWords_shape {k : Nat} {s t : State} {a : Unit} (h : fetchWords k s = .ok a t) : t = s.afterWords k := by
  induction k generalizing s with
  | zero => cases h; exact (State.afterWords_zero _).symm
  | succ k ih =>
    unfold fetchWords at h
    obtain ⟨w, u, h1, h2⟩ := M.of_bind_ok h
    rw [ih h2, (fetchWord_shape h1).2]
    exact State.afterWords_succ s k

theorem fetchImm_shape {sz : Size} {v : Word} {s t : State} (h : fetchImm sz s = .ok v t) :
    v = immValue sz s ∧ t = s.afterWords (immWords sz) := by
  unfold fetchImm at h
  rw [M.get_bind] at h
  obtain ⟨_, u, h1, h2⟩ := M.of_bind_ok h
  rw [M.pure_apply] at h2
  cases h2
  exact ⟨rfl, fetchWords_shape h1⟩

theorem fetchBranchDisp_shape {d : Byte} {v : Word} {s t : State} (h : fetchBranchDisp d s = .ok v t) :
    v = branchDisp d s ∧ t = s.afterWords (branchWords d) := by
  unfold fetchBranchDisp at h
  rw [M.get_bind] at h
  obtain ⟨_, u, h1, h2⟩ := M.of_bind_ok h
  rw [M.pure_apply] at h2
  cases h2
  exact ⟨rfl, fetchWords_shape h1⟩

theorem resolve_shape {sz : Size} {e : Ea} {s t : State} {h : Handle} (hr : resolve sz e s = .ok h t) :
    h = eaHandle sz e s ∧ t = eaAfter sz e s := by
  unfold resolve at hr
  rw [M.get_bind] at hr
  obtain ⟨_, u, h1, h2⟩ := M.of_bind_ok hr
  rw [M.modify_bind, M.pure_apply] at h2
  cases h2
  rw [fetchWords_shape h1]
  exact ⟨rfl, rfl⟩

theorem readH_shape {sz : Size} {h : Handle} {v : Word} {s t : State} (hr : readH sz h s = .ok v t) :
    v = handleValue sz h s ∧ t = handleAfterRead sz h s := by
  cases h with
  | mem a => exact memRead_shape hr
  | data n => cases hr; exact ⟨rfl, rfl⟩
  | addr n => cases hr; exact ⟨rfl, rfl⟩

theorem readEa_shape {sz : Size} {e : Ea} {v : Word} {s t : State} (h : readEa sz e s = .ok v t) :
    v = operandValue sz e s ∧ t = afterOperand sz e s := by
  unfold readEa at h
  obtain ⟨hd, u, h1, h2⟩ := M.of_bind_ok h
  obtain ⟨rfl, rfl⟩ := resolve_shape h1
  exact readH_shape h2

theorem eaAddress_shape {e : Ea} {a : Word} {s t : State} (h : eaAddress e s = .ok a t) (hc : eaIsCtrl e = true) :
    eaHandle .l e s = .mem a ∧ t = s.afterWords (eaWords e) := by
  unfold eaAddress at h
  simp only [hc, Bool.not_true, Bool.false_eq_true, if_false] at h
  obtain ⟨hd, u, h1, h2⟩ := M.of_bind_ok h
  obtain ⟨rfl, rfl⟩ := resolve_shape h1
  obtain ⟨b, hb⟩ := eaHandle_ctrl (sz := .l) s hc
  rw [hb] at h2 ⊢
  have h3 : (pure b : M Word) _ = _ := h2
  rw [M.pure_apply] at h3
  cases h3
  refine ⟨rfl, ?_⟩
  cases e <;> first | rfl | simp [eaIsCtrl] at hc

theorem requireSupervisor_shape {a : Unit} {s t : State} (h : requireSupervisor s = .ok a t) : s.sup = true ∧ t = s := by
  cases hs : s.sup with
  | true => rw [requireSupervisor_ok hs] at h; cases h; exact ⟨rfl, rfl⟩
  | false => rw [requireSupervisor_user hs] at h; cases h

end Sys2Proof.Machine
end

