-- ==== Sys2Proof/Laws/ExecFrame.lean ====
section
/-! SUPPORT. Everything an instruction can do, said once: a relation that the updates an instruction's rule names keep is
kept by the instruction. The updates are those of Safety: `writesD`, `writesA`, `storesTo`, the flag classes,
`writesSr`, `raisesVector`. Every frame statement is one relation put into `exec_keeps`. -/
namespace Sys2Proof.Machine

variable {R Q : State → State → Prop}

/-- What an instruction may do to the flags. -/
def FlagsOk (i : Instr) (old new : Ccr) : Prop :=
  (writesNoFlag i = true → new = old) ∧ (keepsX i = true → new.x = old.x) ∧
  (writesZOnly i = true → new.x = old.x ∧ new.n = old.n ∧ new.v = old.v ∧ new.c = old.c)

/-- The updates the rule of instruction i, run in state s, may make keep R, and its raises end in Q. -/
structure Allows (i : Instr) (s : State) (R Q : State → State → Prop) : Prop where
  stable : Stable R Q
  dreg   : ∀ n ∈ writesD i s, ∀ v u, R u (u.setD n v)
  areg   : ∀ n ∈ writesA i s, ∀ v u, R u (u.setA n v)
  store  : ∀ sz a v u, (∀ b ∈ accessBytes s.config sz a, b ∈ storesTo i s) → u.config = s.config →
    writable u.config sz a = true → R u (u.afterStore sz a v)
  flags  : ∀ f u, FlagsOk i u.ccr f → R u (u.setCcr f)
  sr     : writesSr i = true → ∀ v u, R u (u.putSr v)
  raise  : ∀ v ∈ raisesVector i, ∀ u, Q u (afterRaise v u)
  usp    : (∃ n, i = .moveToUsp n) → ∀ v u, R u (u.setUsp v)
  halt   : i = .stop → ∀ u, R u (u.setHalted true)
  drawn  : drawsFree i = true → ∀ k u, R u (u.setDrawn k)

/-! ### Sequences that several instructions share -/

/-- The write of a handle, then flags. -/
theorem keepsAt_finish (hS : Stable R Q) {sz : Size} {h : Handle} {v : Word} {f : Ccr → Ccr} {s : State}
    (hw : handleWritable s.config sz h = true → R s (handleAfterWrite sz h v s))
    (hf : ∀ u, R u (u.setCcr (f u.ccr))) : KeepsAt R Q (writeH sz h v >>= fun _ => putFlags f) s :=
  keepsAt_bind hS (keepsAt_writeH hS hw) (fun _ t _ _ => keeps_putFlags hf t)

/-- The handle is resolved and read, then used. -/
theorem keepsAt_resolveRead (hS : Stable R Q) {sz : Size} {e : Ea} {s : State} {g : Handle → Word → M Unit}
    (hA : ∀ n ∈ eaStepped e, ∀ v u, R u (u.setA n v))
    (hg : ∀ d u, u.config = s.config → KeepsAt R Q (g (eaHandle sz e s) d) u) :
    KeepsAt R Q (resolve sz e >>= fun h => readH sz h >>= fun d => g h d) s := by
  refine keepsAt_bind hS (keeps_resolve hS hA s) (fun h t ht htc => ?_)
  rw [(resolve_shape ht).1]
  exact keepsAt_bind hS (keeps_readH hS sz _ t) (fun d u _ huc => hg d u (huc.trans htc))

/-- An operand is read, then used. -/
theorem keepsAt_readEa (hS : Stable R Q) {sz : Size} {e : Ea} {s : State} {g : Word → M Unit}
    (hA : ∀ n ∈ eaStepped e, ∀ v u, R u (u.setA n v)) (hg : ∀ d u, u.config = s.config → KeepsAt R Q (g d) u) :
    KeepsAt R Q (readEa sz e >>= g) s :=
  keepsAt_bind hS (keeps_readEa hS hA s) (fun d u _ huc => hg d u huc)

theorem keepsAt_getD (hS : Stable R Q) {sz : Size} {n : Fin 8} {s : State} {g : Word → M Unit}
    (hg : ∀ d, KeepsAt R Q (g d) s) : KeepsAt R Q (getD sz n >>= g) s := by
  refine keepsAt_bind hS (keeps_getD hS sz n s) (fun d u h _ => ?_)
  have h' : (pure (trunc sz (s.dreg n)) : M Word) s = .ok d u := h
  rw [M.pure_apply] at h'
  cases h'
  exact hg _

theorem keepsAt_drawFree (hS : Stable R Q) {s : State} {g : Half → M Unit} (h : ∀ k u, R u (u.setDrawn k))
    (hg : ∀ d u, u.config = s.config → KeepsAt R Q (g d) u) : KeepsAt R Q (drawFree >>= g) s :=
  keepsAt_bind hS (keeps_drawFree h s) (fun d u _ huc => hg d u huc)

section Shared
variable {i : Instr} {s : State}

/-- What `Allows` says of a write through a handle. -/
theorem Allows.write (hA : Allows i s R Q) {sz : Size} {h : Handle} {v : Word} {u : State}
    (hd : ∀ n, h = .data n → n ∈ writesD i s) (ha : ∀ n, h = .addr n → n ∈ writesA i s)
    (hm : ∀ b ∈ handleBytes s.config sz h, b ∈ storesTo i s) (hu : u.config = s.config)
    (hw : handleWritable u.config sz h = true) : R u (handleAfterWrite sz h v u) := by
  cases h with
  | data n => exact hA.dreg n (hd n rfl) _ u
  | addr n => exact hA.areg n (ha n rfl) _ u
  | mem a => exact hA.store sz a v u hm hu hw

/-- An operand form that is not An, written through its handle. -/
theorem Allows.operand (hA : Allows i s R Q) {sz : Size} {e : Ea} {v : Word} {u s' : State} (he : eaIsData e = true)
    (hd : ∀ n ∈ eaD e, n ∈ writesD i s) (hm : ∀ b ∈ handleBytes s.config sz (eaHandle sz e s'), b ∈ storesTo i s)
    (hu : u.config = s.config) (hw : handleWritable u.config sz (eaHandle sz e s') = true) :
    R u (handleAfterWrite sz (eaHandle sz e s') v u) := by
  refine hA.write (fun n hn => hd n ?_) (fun n hn => ?_) hm hu hw
  · cases e <;> simp [eaHandle] at hn
    simp [eaD, hn]
  · cases e <;> simp [eaHandle] at hn
    simp [eaIsData] at he

variable (hA : Allows i s R Q)
include hA

theorem keepsAt_aluEaDn (f : AluOp) {sz : Size} {e : Ea} {n : Fin 8} (hs : ∀ k ∈ eaStepped e, k ∈ writesA i s)
    (hd : n ∈ writesD i s) (hf : ∀ old new, FlagsOk i old new) : KeepsAt R Q (aluEaDn f sz e n) s :=
  keepsAt_readEa hA.stable (fun k hk => hA.areg k (hs k hk)) (fun _ u _ => keepsAt_getD hA.stable (fun _ =>
    keepsAt_bind hA.stable (keeps_putD (fun v u => hA.dreg n hd v u) u)
      (fun _ t _ _ => keeps_putFlags (fun w => hA.flags _ w (hf _ _)) t)))

theorem keepsAt_aluDnEa (f : AluOp) {sz : Size} {e : Ea} {n : Fin 8} (he : eaIsData e = true)
    (hs : ∀ k ∈ eaStepped e, k ∈ writesA i s) (hd : ∀ k ∈ eaD e, k ∈ writesD i s)
    (hm : ∀ b ∈ handleBytes s.config sz (eaHandle sz e s), b ∈ storesTo i s) (hf : ∀ old new, FlagsOk i old new) :
    KeepsAt R Q (aluDnEa f sz n e) s :=
  keepsAt_resolveRead hA.stable (fun k hk => hA.areg k (hs k hk)) (fun _ _ hu => keepsAt_getD hA.stable (fun _ =>
    keepsAt_finish hA.stable (hA.operand he hd hm hu) (fun w => hA.flags _ w (hf _ _))))

theorem keepsAt_aluQuickEa (f : AluOp) {sz : Size} {e : Ea} {q : Fin 8} (he : eaIsData e = true)
    (hs : ∀ k ∈ eaStepped e, k ∈ writesA i s) (hd : ∀ k ∈ eaD e, k ∈ writesD i s)
    (hm : ∀ b ∈ handleBytes s.config sz (eaHandle sz e s), b ∈ storesTo i s)
    (hf : ∀ old new, FlagsOk i old new) : KeepsAt R Q (aluQuickEa f sz q e) s :=
  keepsAt_resolveRead hA.stable (fun k hk => hA.areg k (hs k hk)) (fun _ _ hu =>
    keepsAt_finish hA.stable (hA.operand he hd hm hu) (fun w => hA.flags _ w (hf _ _)))

theorem keepsAt_fetchImm {sz : Size} {g : Word → M Unit}
    (hg : ∀ v, KeepsAt R Q (g v) (s.afterWords (immWords sz))) : KeepsAt R Q (fetchImm sz >>= g) s :=
  keepsAt_bind hA.stable (keeps_fetchImm hA.stable sz s) (fun v t ht _ => by rw [(fetchImm_shape ht).2]; exact hg v)

theorem keepsAt_fetchWord {g : Half → M Unit}
    (hg : KeepsAt R Q (g (s.streamWord 0)) (s.afterWords 1)) : KeepsAt R Q (fetchWord >>= g) s :=
  keepsAt_bind hA.stable (keeps_fetchWord hA.stable s) (fun v t ht _ => by
    rw [(fetchWord_shape ht).1, (fetchWord_shape ht).2]; exact hg)

theorem keepsAt_fetchBranchDisp {d : Byte} {g : Word → M Unit}
    (hg : ∀ v, KeepsAt R Q (g v) (s.afterWords (branchWords d))) : KeepsAt R Q (fetchBranchDisp d >>= g) s :=
  keepsAt_bind hA.stable (keeps_fetchBranchDisp hA.stable d s) (fun v t ht _ => by
    rw [(fetchBranchDisp_shape ht).2]; exact hg v)

theorem keepsAt_aluImmEa (f : AluOp) {sz : Size} {e : Ea} (he : eaIsData e = true)
    (hs : ∀ k ∈ eaStepped e, k ∈ writesA i s) (hd : ∀ k ∈ eaD e, k ∈ writesD i s)
    (hm : ∀ b ∈ handleBytes s.config sz (eaHandle sz e (s.afterWords (immWords sz))), b ∈ storesTo i s)
    (hf : ∀ old new, FlagsOk i old new) : KeepsAt R Q (aluImmEa f sz e) s :=
  keepsAt_fetchImm hA (fun _ =>
    keepsAt_resolveRead hA.stable (fun k hk => hA.areg k (hs k hk)) (fun _ _ hu =>
      keepsAt_finish hA.stable (hA.operand he hd hm hu) (fun w => hA.flags _ w (hf _ _))))

theorem keepsAt_logicEaDn (f : Word → Word → Word) {sz : Size} {e : Ea} {n : Fin 8}
    (hs : ∀ k ∈ eaStepped e, k ∈ writesA i s) (hd : n ∈ writesD i s)
    (hf : ∀ r old, FlagsOk i old (ccrLogic sz r old)) : KeepsAt R Q (logicEaDn f sz e n) s :=
  keepsAt_readEa hA.stable (fun k hk => hA.areg k (hs k hk)) (fun _ u _ => keepsAt_getD hA.stable (fun _ =>
    keepsAt_bind hA.stable (keeps_putD (fun v u => hA.dreg n hd v u) u)
      (fun _ t _ _ => keeps_putFlags (fun w => hA.flags _ w (hf _ _)) t)))

theorem keepsAt_logicDnEa (f : Word → Word → Word) {sz : Size} {e : Ea} {n : Fin 8} (he : eaIsData e = true)
    (hs : ∀ k ∈ eaStepped e, k ∈ writesA i s) (hd : ∀ k ∈ eaD e, k ∈ writesD i s)
    (hm : ∀ b ∈ handleBytes s.config sz (eaHandle sz e s), b ∈ storesTo i s)
    (hf : ∀ r old, FlagsOk i old (ccrLogic sz r old)) : KeepsAt R Q (logicDnEa f sz n e) s :=
  keepsAt_resolveRead hA.stable (fun k hk => hA.areg k (hs k hk)) (fun _ _ hu => keepsAt_getD hA.stable (fun _ =>
    keepsAt_finish hA.stable (hA.operand he hd hm hu) (fun w => hA.flags _ w (hf _ _))))

theorem keepsAt_logicImmEa (f : Word → Word → Word) {sz : Size} {e : Ea} (he : eaIsData e = true)
    (hs : ∀ k ∈ eaStepped e, k ∈ writesA i s) (hd : ∀ k ∈ eaD e, k ∈ writesD i s)
    (hm : ∀ b ∈ handleBytes s.config sz (eaHandle sz e (s.afterWords (immWords sz))), b ∈ storesTo i s)
    (hf : ∀ r old, FlagsOk i old (ccrLogic sz r old)) : KeepsAt R Q (logicImmEa f sz e) s :=
  keepsAt_fetchImm hA (fun _ =>
    keepsAt_resolveRead hA.stable (fun k hk => hA.areg k (hs k hk)) (fun _ _ hu =>
      keepsAt_finish hA.stable (hA.operand he hd hm hu) (fun w => hA.flags _ w (hf _ _))))

theorem keepsAt_shiftReg (step : Size → ShiftAcc → ShiftAcc) (flags : Size → Nat → ShiftAcc → Ccr → Ccr) {sz : Size}
    {c : ShiftCount} {n : Fin 8} (hd : n ∈ writesD i s) (hf : ∀ k a old, FlagsOk i old (flags sz k a old)) :
    KeepsAt R Q (shiftReg step flags sz c n) s :=
  keepsAt_get_bind (keepsAt_getD hA.stable (fun _ => keepsAt_get_bind
    (keepsAt_bind hA.stable (keeps_putD (fun v u => hA.dreg n hd v u) s)
      (fun _ t _ _ => keeps_putFlags (fun w => hA.flags _ w (hf _ _ _)) t))))

theorem keepsAt_shiftMem (step : Size → ShiftAcc → ShiftAcc) (flags : Size → Nat → ShiftAcc → Ccr → Ccr) {e : Ea}
    (he : eaIsData e = true) (hs : ∀ k ∈ eaStepped e, k ∈ writesA i s) (hd : ∀ k ∈ eaD e, k ∈ writesD i s)
    (hm : ∀ b ∈ handleBytes s.config .w (eaHandle .w e s), b ∈ storesTo i s)
    (hf : ∀ k a old, FlagsOk i old (flags .w k a old)) : KeepsAt R Q (shiftMem step flags e) s :=
  keepsAt_resolveRead hA.stable (fun k hk => hA.areg k (hs k hk)) (fun _ _ hu => keepsAt_get_bind
    (keepsAt_finish hA.stable (hA.operand he hd hm hu) (fun w => hA.flags _ w (hf _ _ _))))

theorem keepsAt_aluX (f : AluOp) {sz : Size} {form : PairForm} {x y : Fin 8}
    (hr : form = .regs → x ∈ writesD i s) (hx : form = .mem → x ∈ writesA i s) (hy : form = .mem → y ∈ writesA i s)
    (hm : form = .mem →
      ∀ b ∈ handleBytes s.config sz (eaHandle sz (.pre x) (afterOperand sz (.pre y) s)), b ∈ storesTo i s)
    (hf : ∀ old new, FlagsOk i old new) : KeepsAt R Q (aluX f sz form x y) s := by
  cases form with
  | regs =>
    exact keepsAt_getD hA.stable (fun _ => keepsAt_getD hA.stable (fun _ => keepsAt_get_bind
      (keepsAt_bind hA.stable (keeps_putD (fun v u => hA.dreg x (hr rfl) v u) s)
        (fun _ t _ _ => keeps_putFlags (fun w => hA.flags _ w (hf _ _)) t))))
  | mem =>
    refine keepsAt_bind hA.stable (keeps_readEa hA.stable (fun k hk => hA.areg k (by
      simp only [eaStepped, List.mem_singleton] at hk; exact hk ▸ hy rfl)) s) (fun v t ht htc => ?_)
    rw [(readEa_shape ht).2] at htc ⊢
    refine keepsAt_resolveRead hA.stable (fun k hk => hA.areg k (by
      simp only [eaStepped, List.mem_singleton] at hk; exact hk ▸ hx rfl)) (fun d u hu => keepsAt_get_bind
        (keepsAt_finish hA.stable (hA.operand rfl (by simp [eaD]) (hm rfl) (hu.trans htc))
          (fun w => hA.flags _ w (hf _ _))))

theorem keepsAt_bcdPair (f : Int → Int → Int → Int × Bool) {form : PairForm} {x y : Fin 8}
    (hdf : drawsFree i = true)
    (hr : form = .regs → x ∈ writesD i s) (hx : form = .mem → x ∈ writesA i s) (hy : form = .mem → y ∈ writesA i s)
    (hm : form = .mem →
      ∀ b ∈ handleBytes s.config .b (eaHandle .b (.pre x) (afterOperand .b (.pre y) s)), b ∈ storesTo i s)
    (hf : ∀ old new, FlagsOk i old new) : KeepsAt R Q (bcdPair f form x y) s := by
  cases form with
  | regs =>
    exact keepsAt_getD hA.stable (fun _ => keepsAt_getD hA.stable (fun _ => keepsAt_get_bind
      (keepsAt_drawFree hA.stable (hA.drawn hdf) (fun _ u _ =>
        keepsAt_bind hA.stable (keeps_putD (fun v u => hA.dreg x (hr rfl) v u) u)
          (fun _ t _ _ => keeps_putFlags (fun w => hA.flags _ w (hf _ _)) t)))))
  | mem =>
    refine keepsAt_bind hA.stable (keeps_readEa hA.stable (fun k hk => hA.areg k (by
      simp only [eaStepped, List.mem_singleton] at hk; exact hk ▸ hy rfl)) s) (fun v t ht htc => ?_)
    rw [(readEa_shape ht).2] at htc ⊢
    refine keepsAt_resolveRead hA.stable (fun k hk => hA.areg k (by
      simp only [eaStepped, List.mem_singleton] at hk; exact hk ▸ hx rfl)) (fun d u hu => keepsAt_get_bind
        (keepsAt_drawFree hA.stable (hA.drawn hdf) (fun _ w hw =>
          keepsAt_finish hA.stable (hA.operand rfl (by simp [eaD]) (hm rfl) ((hw.trans hu).trans htc))
            (fun w => hA.flags _ w (hf _ _)))))

theorem keepsAt_bitTest {b : Nat} {e : Ea} {u : State} (hs : ∀ k ∈ eaStepped e, k ∈ writesA i s)
    (hf : ∀ d k old, FlagsOk i old (ccrBit d k old)) : KeepsAt R Q (bitTest b e) u := by
  cases e with
  | dn n => exact keepsAt_get_bind (keeps_putFlags (fun w => hA.flags _ w (hf _ _ _)) u)
  | _ => exact keepsAt_readEa hA.stable (fun k hk => hA.areg k (hs k hk)) (fun d u _ =>
      keeps_putFlags (fun w => hA.flags _ w (hf _ _ _)) u)

theorem keepsAt_bitUpdate (f : Word → Word → Word) {b : Nat} {e : Ea} {u : State} (he : eaIsData e = true)
    (hs : ∀ k ∈ eaStepped e, k ∈ writesA i s) (hd : ∀ k ∈ eaD e, k ∈ writesD i s)
    (hm : ∀ b ∈ handleBytes s.config .b (eaHandle .b e u), b ∈ storesTo i s) (hu : u.config = s.config)
    (hf : ∀ d k old, FlagsOk i old (ccrBit d k old)) : KeepsAt R Q (bitUpdate f b e) u := by
  cases e with
  | dn n =>
    exact keepsAt_get_bind (keepsAt_modify_bind hA.stable (hA.dreg n (hd n (by simp [eaD])) _ u)
      (keeps_putFlags (fun w => hA.flags _ w (hf _ _ _)) _))
  | _ => exact keepsAt_resolveRead hA.stable (fun k hk => hA.areg k (hs k hk)) (fun d w hw =>
      keepsAt_finish hA.stable (hA.operand he hd hm (hw.trans hu)) (fun w => hA.flags _ w (hf _ _ _)))

theorem keepsAt_fetchBitNumber {g : Nat → M Unit} (hg : ∀ b, KeepsAt R Q (g b) (s.afterWords 1)) :
    KeepsAt R Q (fetchBitNumber >>= g) s := by
  have h : Keeps R Q fetchBitNumber := keeps_bind hA.stable (keeps_fetchWord hA.stable) (fun _ => keeps_pure hA.stable _)
  refine keepsAt_bind hA.stable (h s) (fun b t ht _ => ?_)
  obtain ⟨w, u, h1, h2⟩ := M.of_bind_ok ht
  rw [M.pure_apply] at h2
  cases h2
  rw [(fetchWord_shape h1).2]
  exact hg _

theorem keepsAt_eaAddress {e : Ea} {u : State} {g : Word → M Unit} (hc : eaIsCtrl e = true)
    (hg : ∀ a, eaHandle .l e u = .mem a → KeepsAt R Q (g a) (u.afterWords (eaWords e))) :
    KeepsAt R Q (eaAddress e >>= g) u :=
  keepsAt_bind hA.stable (keeps_eaAddress hA.stable hc u) (fun a t ht _ => by
    rw [(eaAddress_shape ht hc).2]; exact hg a (eaAddress_shape ht hc).1)

theorem keepsAt_pushThen {sz : Size} {v : Word} {u : State} {g : Unit → M Unit} (h7 : 7 ∈ writesA i s)
    (hu : u.config = s.config) (ha : u.areg 7 = s.areg 7)
    (hm : ∀ b ∈ accessBytes s.config sz (pushTo sz s), b ∈ storesTo i s) (hg : ∀ w, KeepsAt R Q (g ()) w) :
    KeepsAt R Q (push sz v >>= g) u := by
  have hp : pushTo sz u = pushTo sz s := by simp [pushTo, ha]
  refine keepsAt_bind hA.stable (keepsAt_push hA.stable (fun w => hA.areg 7 h7 w u) (fun w hw hwr => ?_))
    (fun _ t _ _ => hg t)
  rw [hp] at hwr ⊢
  exact hA.store sz _ v w hm (hw.trans hu) hwr

theorem keepsAt_pushLast {sz : Size} {v : Word} {u : State} (h7 : 7 ∈ writesA i s)
    (hu : u.config = s.config) (ha : u.areg 7 = s.areg 7)
    (hm : ∀ b ∈ accessBytes s.config sz (pushTo sz s), b ∈ storesTo i s) : KeepsAt R Q (push sz v) u := by
  have hp : pushTo sz u = pushTo sz s := by simp [pushTo, ha]
  refine keepsAt_push hA.stable (fun w => hA.areg 7 h7 w u) (fun w hw hwr => ?_)
  rw [hp] at hwr ⊢
  exact hA.store sz _ v w hm (hw.trans hu) hwr

theorem keeps_rewind {v : BitVec 8} (hv : v ∈ raisesVector i) (u : State) : Q u (afterRaise v u.rewindPc) :=
  hA.stable.before _ _ _ (hA.stable.pc _ u (fun h => by rw [isOdd_sub_two]; exact h)) (hA.raise v hv _)

/-- The privilege check, then the rest. -/
theorem keepsAt_privileged {g : Unit → M Unit} (hv : 8 ∈ raisesVector i) (hg : KeepsAt R Q (g ()) s) :
    KeepsAt R Q (requireSupervisor >>= g) s :=
  keepsAt_bind hA.stable (keeps_requireSupervisor hA.stable (fun u _ => keeps_rewind hA hv u) s)
    (fun _ t ht _ => by rw [(requireSupervisor_shape ht).2]; exact hg)

/-- A destination resolved and written, not read. -/
theorem keepsAt_resolveWrite {sz : Size} {e : Ea} {g : Handle → M Unit} (he : eaIsData e = true)
    (hs : ∀ k ∈ eaStepped e, k ∈ writesA i s) (hd : ∀ k ∈ eaD e, k ∈ writesD i s)
    (hm : ∀ b ∈ handleBytes s.config sz (eaHandle sz e s), b ∈ storesTo i s)
    (hg : ∀ {u : State}, (∀ v, handleWritable u.config sz (eaHandle sz e s) = true →
      R u (handleAfterWrite sz (eaHandle sz e s) v u)) → KeepsAt R Q (g (eaHandle sz e s)) u) :
    KeepsAt R Q (resolve sz e >>= g) s := by
  refine keepsAt_bind hA.stable (keeps_resolve hA.stable (fun k hk => hA.areg k (hs k hk)) s) (fun h t ht htc => ?_)
  rw [(resolve_shape ht).1]
  exact hg (fun v => hA.operand he hd hm htc)

theorem keepsAt_loadPcAfter {α : Type} {m : M α} {a : Word} {u : State} (hm : Keeps R Q m) :
    KeepsAt R Q (m >>= fun _ => loadPc a) u :=
  keepsAt_bind hA.stable (hm u) (fun _ t _ _ => keeps_loadPc hA.stable a t)

theorem keepsAt_rte (hsr : writesSr i = true) (h7 : 7 ∈ writesA i s) : KeepsAt R Q returnFromException s :=
  keepsAt_get_bind (keepsAt_bind hA.stable (keeps_memRead hA.stable _ _ s) (fun _ t _ _ => keepsAt_get_bind
    (keepsAt_bind hA.stable (keeps_memRead hA.stable _ _ t) (fun _ u _ _ =>
      keepsAt_modify_bind hA.stable (hA.areg 7 h7 _ u) (keepsAt_modify_bind hA.stable (hA.sr hsr _ _)
        (keeps_loadPc hA.stable _ _))))))

end Shared

theorem data_of_mem {e : Ea} (h : eaIsMem e = true) : eaIsData e = true := by
  cases e <;> simp_all [eaIsMem, eaIsData]

theorem no_dreg {e : Ea} {l : List (Fin 8)} (h : eaIsMem e = true) : ∀ k ∈ eaD e, k ∈ l := by
  cases e <;> simp_all [eaIsMem, eaD]

/-! ### Instructions with a sequence of their own -/

theorem keepsAt_move {sz : Size} {src dst : Ea} {s : State} (hA : Allows (.move sz src dst) s R Q)
    (hd : eaIsData dst = true) :
    KeepsAt R Q (readEa sz src >>= fun v => resolve sz dst >>= fun h => writeH sz h v >>= fun _ =>
      putFlags (ccrLogic sz v)) s := by
  refine keepsAt_bind hA.stable (keeps_readEa hA.stable (fun k hk => hA.areg k (List.mem_append_left _ hk)) s)
    (fun v t ht htc => ?_)
  rw [(readEa_shape ht).2] at htc ⊢
  refine keepsAt_bind hA.stable (keeps_resolve hA.stable (fun k hk => hA.areg k (List.mem_append_right _ hk)) _)
    (fun h u hu huc => ?_)
  rw [(resolve_shape hu).1]
  exact keepsAt_finish hA.stable (hA.operand hd (fun k hk => hk) (fun b hb => hb) (huc.trans htc))
    (fun w => hA.flags _ w (by simp [FlagsOk, writesNoFlag, keepsX, writesZOnly, ccrLogic]))

theorem keepsAt_storeByte {x y : Fin 8} {sz : Size} {s u : State} (hA : Allows (.movep .regToMem sz x y) s R Q)
    {a v : Word} (k : Nat) (ha : a = s.areg y + sextHalf (s.streamWord 0) + BitVec.ofNat 32 (2 * k))
    (hk : k < sizeBytes sz) (hu : u.config = s.config) : KeepsAt R Q (memWrite .b a v) u := by
  refine keepsAt_memWrite hA.stable (hA.store .b _ v u (fun b hb => ?_) hu)
  simp only [accessBytes, sizeBytes, List.range_one, List.map_cons, List.map_nil, Nat.add_zero,
    List.mem_singleton] at hb
  simp only [storesTo, List.mem_map, List.mem_range]
  exact ⟨k, hk, by rw [hb, ha]⟩

theorem keepsAt_movepStore {x y : Fin 8} {sz : Size} {a : Word} {s u : State}
    (hA : Allows (.movep .regToMem sz x y) s R Q) (hz : sizeIsWL sz = true)
    (ha : a = s.areg y + sextHalf (s.streamWord 0)) (hu : u.config = s.config) :
    KeepsAt R Q (movepStore sz x a) u := by
  have h2 : 2 ≤ sizeBytes sz := by cases sz <;> simp_all [sizeIsWL, sizeBytes]
  unfold movepStore
  refine keepsAt_get_bind ?_
  refine keepsAt_bind hA.stable (keepsAt_storeByte hA 0 (by simp [ha]) (by omega) hu) (fun _ t1 _ h1 => ?_)
  refine keepsAt_bind hA.stable (keepsAt_storeByte hA 1 (by simp [ha]) (by omega) (h1.trans hu)) (fun _ t2 _ h2' => ?_)
  have hc := h2'.trans (h1.trans hu)
  by_cases hl : sz = .l
  · subst hl
    rw [if_pos rfl]
    refine keepsAt_bind hA.stable (keepsAt_storeByte hA 2 (by simp [ha]) (by decide) hc) (fun _ t3 _ h3 => ?_)
    exact keepsAt_storeByte hA 3 (by simp [ha]) (by decide) (h3.trans hc)
  · rw [if_neg hl]
    exact keeps_pure hA.stable _ t2

theorem keepsAt_movepLoad {x y : Fin 8} {sz : Size} {a : Word} {s u : State}
    (hA : Allows (.movep .memToReg sz x y) s R Q) : KeepsAt R Q (movepLoad sz x a) u := by
  unfold movepLoad
  refine keepsAt_bind hA.stable (keeps_memRead hA.stable _ _ u) (fun _ t1 _ _ => ?_)
  refine keepsAt_bind hA.stable (keeps_memRead hA.stable _ _ t1) (fun _ t2 _ _ => ?_)
  by_cases hl : sz = .l
  · simp only [hl, if_true]
    exact keepsAt_bind hA.stable (keeps_memRead hA.stable _ _ t2) (fun _ t3 _ _ =>
      keepsAt_bind hA.stable (keeps_memRead hA.stable _ _ t3) (fun _ t4 _ _ =>
        keepsAt_ok rfl (hA.dreg x (by simp [writesD]) _ t4)))
  · simp only [hl, if_false]
    exact keeps_putD (fun v u => hA.dreg x (by simp [writesD]) v u) t2

theorem keepsAt_movep {dir : MovepDir} {sz : Size} {x y : Fin 8} {s : State} (hA : Allows (.movep dir sz x y) s R Q)
    (hz : sizeIsWL sz = true) :
    KeepsAt R Q (fetchWord >>= fun d => get >>= fun u => match dir with
      | .regToMem => movepStore sz x (u.areg y + sextHalf d)
      | .memToReg => movepLoad sz x (u.areg y + sextHalf d)) s := by
  refine keepsAt_fetchWord hA (keepsAt_get_bind ?_)
  cases dir with
  | regToMem => exact keepsAt_movepStore hA hz rfl rfl
  | memToReg => exact keepsAt_movepLoad hA

theorem keepsAt_chkTail {e : Ea} {n : Fin 8} {s u : State} {v d : Int} {free : Half} (hA : Allows (.chk e n) s R Q) :
    KeepsAt R Q (if d < 0 then putFlags (ccrChk true free) >>= fun _ => (raise 6 : M Unit)
      else if v < d then putFlags (ccrChk false free) >>= fun _ => raise 6
      else putFlags (ccrChk (free.getLsbD 3) free)) u := by
  have hf : ∀ b, Keeps R Q (putFlags (ccrChk b free)) := fun b =>
    keeps_putFlags (fun w => hA.flags _ w (by simp [FlagsOk, writesNoFlag, keepsX, writesZOnly, ccrChk]))
  have hr : ∀ b, Keeps R Q (putFlags (ccrChk b free) >>= fun _ => (raise 6 : M Unit)) := fun b =>
    keeps_bind hA.stable (hf b) (fun _ => keeps_raise (fun u => hA.raise 6 (by simp [raisesVector]) u))
  exact keeps_ite (hr true) (keeps_ite (hr false) (hf _)) u

/-- The three ends of a division. -/
theorem keepsAt_divTail {i : Instr} {s u : State} (hA : Allows i s R Q) {c1 c2 : Prop} [Decidable c1] [Decidable c2]
    {n : Fin 8} {r : Word} {f : Half → Ccr → Ccr} {g : Ccr → Ccr} (hd : n ∈ writesD i s) (hv : 5 ∈ raisesVector i)
    (hdf : drawsFree i = true) (hf : ∀ k old, FlagsOk i old (f k old)) (hg : ∀ old, FlagsOk i old (g old)) :
    KeepsAt R Q (if c1 then (raise 5 : M Unit) else if c2 then drawFree >>= fun k => putFlags (f k)
      else modify (fun s => s.setD n r) >>= fun _ => putFlags g) u :=
  keeps_ite (keeps_raise (fun u => hA.raise 5 hv u)) (keeps_ite
    (keeps_bind hA.stable (keeps_drawFree (hA.drawn hdf)) (fun k => keeps_putFlags (fun w => hA.flags _ w (hf k _))))
    (keeps_bind hA.stable (keeps_modify (fun w => hA.dreg n hd _ w)) (fun _ =>
      keeps_putFlags (fun w => hA.flags _ w (hg _))))) u

theorem keepsAt_link {n : Fin 8} {s : State} (hA : Allows (.link n) s R Q) :
    KeepsAt R Q (fetchWord >>= fun d => modify (fun s => s.setA 7 (s.areg 7 - 4)) >>= fun _ => get >>= fun u =>
      get >>= fun w => memWrite .l (u.areg 7) (w.areg n) >>= fun _ => modify (fun s => s.setA n (s.areg 7)) >>= fun _ =>
      modify (fun s => s.setA 7 (s.areg 7 + sextHalf d))) s := by
  refine keepsAt_fetchWord hA (keepsAt_modify_bind hA.stable (hA.areg 7 (by simp [writesA]) _ _)
    (keepsAt_get_bind (keepsAt_get_bind ?_)))
  refine keepsAt_bind hA.stable (keepsAt_memWrite hA.stable (fun h => hA.store .l _ _ _ (fun b hb => ?_) rfl h))
    (fun _ t _ _ => keepsAt_modify_bind hA.stable (hA.areg n (by simp [writesA]) _ _)
      (keepsAt_ok rfl (hA.areg 7 (by simp [writesA]) _ _)))
  rw [State.setA_areg_same] at hb
  exact hb

theorem keepsAt_unlk {n : Fin 8} {s : State} (hA : Allows (.unlk n) s R Q) :
    KeepsAt R Q (modify (fun s => s.setA 7 (s.areg n)) >>= fun _ => get >>= fun u => memRead .l (u.areg 7) >>= fun v =>
      modify (fun s => s.setA 7 (s.areg 7 + 4)) >>= fun _ => modify (fun s => s.setA n v)) s :=
  keepsAt_modify_bind hA.stable (hA.areg 7 (by simp [writesA]) _ _) (keepsAt_get_bind
    (keepsAt_bind hA.stable (keeps_memRead hA.stable _ _ _) (fun _ t _ _ =>
      keepsAt_modify_bind hA.stable (hA.areg 7 (by simp [writesA]) _ _)
        (keepsAt_ok rfl (hA.areg n (by simp [writesA]) _ _)))))

theorem keepsAt_rtr {s : State} (hA : Allows .rtr s R Q) :
    KeepsAt R Q (get >>= fun u => memRead .w (u.areg 7) >>= fun w => get >>= fun t => memRead .l (t.areg 7 + 2) >>=
      fun a => modify (fun s => s.setA 7 (s.areg 7 + 6)) >>= fun _ => modify (fun s => s.putCcr (w.setWidth 16)) >>=
      fun _ => loadPc a) s :=
  keepsAt_get_bind (keepsAt_bind hA.stable (keeps_memRead hA.stable _ _ s) (fun _ t _ _ => keepsAt_get_bind
    (keepsAt_bind hA.stable (keeps_memRead hA.stable _ _ t) (fun _ u _ _ =>
      keepsAt_modify_bind hA.stable (hA.areg 7 (by simp [writesA]) _ u) (keepsAt_modify_bind hA.stable
        (hA.flags _ _ (by simp [FlagsOk, writesNoFlag, keepsX, writesZOnly])) (keeps_loadPc hA.stable _ _))))))

theorem keepsAt_dbcc {cond : Cond} {n : Fin 8} {s : State} (hA : Allows (.dbcc cond n) s R Q) :
    KeepsAt R Q (get >>= fun s0 => fetchWord >>= fun d => get >>= fun u =>
      if (!condHolds u.ccr cond) = true then get >>= fun w =>
        putD .w n (trunc .w (w.dreg n - 1)) >>= fun _ =>
          if (trunc .w (w.dreg n - 1) != 0xFFFF) = true then loadPc (s0.pc + sextHalf d) else pure ()
      else pure ()) s := by
  refine keepsAt_get_bind (keepsAt_fetchWord hA (keepsAt_get_bind (keeps_ite (keeps_get_bind (fun w => ?_))
    (keeps_pure hA.stable ()) _)))
  exact keeps_bind hA.stable (keeps_putD (fun v u => hA.dreg n (by simp [writesD]) v u))
    (fun _ => keeps_ite (keeps_loadPc hA.stable _) (keeps_pure hA.stable ()))

end Sys2Proof.Machine
end

