-- ==== Sys2Proof/Laws/ExecKeeps.lean ====
section
/-! SUPPORT. `exec_keeps`: a relation that the updates of an instruction's rule keep is kept by the instruction, whichever
it is. -/
namespace Sys2Proof.Machine

variable {R Q : State → State → Prop}

theorem setX_keeps {i : Instr} {s : State} (hA : Allows i s R Q) {l : List (Fin 16)}
    (hd : ∀ n ∈ dataRegs l, n ∈ writesD i s) (ha : ∀ n ∈ addrRegs l, n ∈ writesA i s) :
    ∀ k ∈ l, ∀ v u, R u (u.setX k v) := by
  intro k hk v u
  unfold State.setX
  split
  · rename_i h
    refine hA.dreg _ (hd _ ?_) v u
    simp only [dataRegs, List.mem_map, List.mem_filter, decide_eq_true_eq]
    exact ⟨k, ⟨hk, h⟩, Fin.ext (by simp [Fin.ofNat]; omega)⟩
  · rename_i h
    refine hA.areg _ (ha _ ?_) v u
    simp only [addrRegs, List.mem_map, List.mem_filter, decide_eq_true_eq]
    exact ⟨k, ⟨hk, by omega⟩, rfl⟩

theorem maskRegsReversed_length (m : Half) : (maskRegsReversed m).length = (maskRegs m).length := by
  simp [maskRegsReversed, maskRegs]

/-- MOVEM to memory, the descending form. -/
theorem keepsAt_movemDown {sz : Size} {n : Fin 8} {s : State} (hA : Allows (.movemToMem sz (.pre n)) s R Q) :
    KeepsAt R Q (fetchWord >>= fun mask => get >>= fun u => storeRegsDown sz (maskRegsReversed mask) (u.areg n) >>=
      fun last => modify (fun s => s.setA n last)) s := by
  refine keepsAt_fetchWord hA (keepsAt_get_bind (keepsAt_bind hA.stable (keepsAt_storeRegsDown hA.stable sz _ _ _ ?_)
    (fun v t _ _ => keepsAt_ok rfl (hA.areg n (by simp [writesA, eaStepped]) _ t))))
  intro k hk v u hu hw
  refine hA.store sz _ v u (fun b hb => ?_) hu hw
  rw [maskRegsReversed_length] at hk
  exact List.mem_flatMap.mpr ⟨k, List.mem_range.mpr hk, hb⟩

/-- MOVEM to memory, the ascending forms. -/
theorem keepsAt_movemUp {sz : Size} {e : Ea} {s : State} (hA : Allows (.movemToMem sz e) s R Q)
    (hc : eaIsCtrl e = true) :
    KeepsAt R Q (fetchWord >>= fun mask => eaAddress e >>= fun a => storeRegs sz (maskRegs mask) a) s := by
  refine keepsAt_fetchWord hA (keepsAt_eaAddress hA hc (fun a ha => keepsAt_storeRegs hA.stable sz _ _ _ ?_))
  intro k hk v u hu hw
  refine hA.store sz _ v u (fun b hb => ?_) hu hw
  have hm : movemBytes sz e s = (List.range (maskRegs (s.streamWord 0)).length).flatMap
      (fun k => accessBytes s.config sz (transferUp sz a k)) := by
    cases e <;> first | (simp [eaIsCtrl] at hc; done) | (simp only [movemBytes, ha])
  show b ∈ movemBytes sz e s
  rw [hm]
  exact List.mem_flatMap.mpr ⟨k, List.mem_range.mpr hk, hb⟩

/-- MOVEM to registers, the postincrement form. -/
theorem keepsAt_movemPost {sz : Size} {n : Fin 8} {s : State} (hA : Allows (.movemToRegs sz (.post n)) s R Q) :
    KeepsAt R Q (fetchWord >>= fun mask => get >>= fun u => loadRegs sz (maskRegs mask) (u.areg n) >>=
      fun last => modify (fun s => s.setA n last)) s := by
  refine keepsAt_fetchWord hA (keepsAt_get_bind (keepsAt_bind hA.stable (keeps_loadRegs hA.stable sz _
    (setX_keeps hA (fun k hk => hk) (fun k hk => List.mem_append_right _ hk)) _ _)
    (fun v t _ _ => keepsAt_ok rfl (hA.areg n (by simp [writesA, eaStepped]) _ t))))

/-- MOVEM to registers, the control forms. -/
theorem keepsAt_movemLoad {sz : Size} {e : Ea} {s : State} (hA : Allows (.movemToRegs sz e) s R Q)
    (hc : eaIsCtrl e = true) :
    KeepsAt R Q (fetchWord >>= fun mask => eaAddress e >>= fun a => loadRegs sz (maskRegs mask) a >>= fun _ =>
      pure ()) s := by
  refine keepsAt_fetchWord hA (keepsAt_eaAddress hA hc (fun a _ => keepsAt_bind hA.stable (keeps_loadRegs hA.stable sz _
    (setX_keeps hA (fun k hk => hk) (fun k hk => List.mem_append_right _ hk)) _ _)
    (fun v t _ _ => keeps_pure hA.stable _ t)))

theorem exec_keeps {i : Instr} {s t : State} (hwf : i.wf = true) (hA : Allows i s R Q) (h : exec i s = .next t) :
    R s t ∨ Q s t := by
  cases i with
  | ori sz e =>
    refine keepsAt_run ?_ h
    exact keepsAt_logicImmEa hA _ hwf (fun _ hk => hk) (fun _ hk => hk) (fun _ hk => hk) (fun _ _ => (by simp
      [FlagsOk, writesNoFlag, keepsX, writesZOnly, ccrLogic]))
  | oriToCcr =>
    refine keepsAt_run ?_ h
    exact keepsAt_fetchWord hA (keepsAt_ok rfl (hA.flags _ _ (by simp [FlagsOk, writesNoFlag, keepsX, writesZOnly])))
  | oriToSr =>
    refine keepsAt_run ?_ h
    exact keepsAt_privileged hA (by simp [raisesVector, isPrivileged]) (keepsAt_fetchWord hA (keepsAt_ok rfl (hA.sr
      rfl _ _)))
  | andi sz e =>
    refine keepsAt_run ?_ h
    exact keepsAt_logicImmEa hA _ hwf (fun _ hk => hk) (fun _ hk => hk) (fun _ hk => hk) (fun _ _ => (by simp
      [FlagsOk, writesNoFlag, keepsX, writesZOnly, ccrLogic]))
  | andiToCcr =>
    refine keepsAt_run ?_ h
    exact keepsAt_fetchWord hA (keepsAt_ok rfl (hA.flags _ _ (by simp [FlagsOk, writesNoFlag, keepsX, writesZOnly])))
  | andiToSr =>
    refine keepsAt_run ?_ h
    exact keepsAt_privileged hA (by simp [raisesVector, isPrivileged]) (keepsAt_fetchWord hA (keepsAt_ok rfl (hA.sr
      rfl _ _)))
  | subi sz e =>
    refine keepsAt_run ?_ h
    exact keepsAt_aluImmEa hA _ hwf (fun _ hk => hk) (fun _ hk => hk) (fun _ hk => hk) (fun _ _ => (by simp [FlagsOk,
      writesNoFlag, keepsX, writesZOnly]))
  | addi sz e =>
    refine keepsAt_run ?_ h
    exact keepsAt_aluImmEa hA _ hwf (fun _ hk => hk) (fun _ hk => hk) (fun _ hk => hk) (fun _ _ => (by simp [FlagsOk,
      writesNoFlag, keepsX, writesZOnly]))
  | eori sz e =>
    refine keepsAt_run ?_ h
    exact keepsAt_logicImmEa hA _ hwf (fun _ hk => hk) (fun _ hk => hk) (fun _ hk => hk) (fun _ _ => (by simp
      [FlagsOk, writesNoFlag, keepsX, writesZOnly, ccrLogic]))
  | eoriToCcr =>
    refine keepsAt_run ?_ h
    exact keepsAt_fetchWord hA (keepsAt_ok rfl (hA.flags _ _ (by simp [FlagsOk, writesNoFlag, keepsX, writesZOnly])))
  | eoriToSr =>
    refine keepsAt_run ?_ h
    exact keepsAt_privileged hA (by simp [raisesVector, isPrivileged]) (keepsAt_fetchWord hA (keepsAt_ok rfl (hA.sr
      rfl _ _)))
  | cmpi sz e =>
    refine keepsAt_run ?_ h
    exact keepsAt_fetchImm hA (fun _ => keepsAt_readEa hA.stable (fun k hk => hA.areg k hk) (fun _ u _ =>
      keeps_putFlags (fun w => hA.flags _ w (by simp [FlagsOk, writesNoFlag, keepsX, writesZOnly, ccrCompare])) u))
  | btst e =>
    refine keepsAt_run ?_ h
    exact keepsAt_fetchBitNumber hA (fun _ => keepsAt_bitTest hA (fun _ hk => hk) (fun _ _ _ => (by simp [FlagsOk,
      writesNoFlag, keepsX, writesZOnly, ccrBit])))
  | btstDn n e =>
    refine keepsAt_run ?_ h
    exact keepsAt_get_bind (keepsAt_bitTest hA (fun _ hk => hk) (fun _ _ _ => (by simp [FlagsOk, writesNoFlag,
      keepsX, writesZOnly, ccrBit])))
  | bchg e =>
    refine keepsAt_run ?_ h
    exact keepsAt_fetchBitNumber hA (fun _ => keepsAt_bitUpdate hA _ hwf (fun _ hk => hk) (fun _ hk => hk) (fun _ hk
      => hk) rfl (fun _ _ _ => (by simp [FlagsOk, writesNoFlag, keepsX, writesZOnly, ccrBit])))
  | bchgDn n e =>
    refine keepsAt_run ?_ h
    exact keepsAt_get_bind (keepsAt_bitUpdate hA _ hwf (fun _ hk => hk) (fun _ hk => hk) (fun _ hk => hk) rfl (fun _
      _ _ => (by simp [FlagsOk, writesNoFlag, keepsX, writesZOnly, ccrBit])))
  | bclr e =>
    refine keepsAt_run ?_ h
    exact keepsAt_fetchBitNumber hA (fun _ => keepsAt_bitUpdate hA _ hwf (fun _ hk => hk) (fun _ hk => hk) (fun _ hk
      => hk) rfl (fun _ _ _ => (by simp [FlagsOk, writesNoFlag, keepsX, writesZOnly, ccrBit])))
  | bclrDn n e =>
    refine keepsAt_run ?_ h
    exact keepsAt_get_bind (keepsAt_bitUpdate hA _ hwf (fun _ hk => hk) (fun _ hk => hk) (fun _ hk => hk) rfl (fun _
      _ _ => (by simp [FlagsOk, writesNoFlag, keepsX, writesZOnly, ccrBit])))
  | bset e =>
    refine keepsAt_run ?_ h
    exact keepsAt_fetchBitNumber hA (fun _ => keepsAt_bitUpdate hA _ hwf (fun _ hk => hk) (fun _ hk => hk) (fun _ hk
      => hk) rfl (fun _ _ _ => (by simp [FlagsOk, writesNoFlag, keepsX, writesZOnly, ccrBit])))
  | bsetDn n e =>
    refine keepsAt_run ?_ h
    exact keepsAt_get_bind (keepsAt_bitUpdate hA _ hwf (fun _ hk => hk) (fun _ hk => hk) (fun _ hk => hk) rfl (fun _
      _ _ => (by simp [FlagsOk, writesNoFlag, keepsX, writesZOnly, ccrBit])))
  | movep dir sz x y => exact keepsAt_run (keepsAt_movep hA hwf) h
  | move sz src dst =>
    refine keepsAt_run ?_ h
    exact keepsAt_move hA (Bool.and_eq_true _ _ ▸ hwf : _ ∧ _).2
  | movea sz e n =>
    refine keepsAt_run ?_ h
    exact keepsAt_readEa hA.stable (fun k hk => hA.areg k (List.mem_append_left _ hk)) (fun _ u _ => keepsAt_ok rfl
      (hA.areg n (by simp [writesA]) _ u))
  | negx sz e =>
    refine keepsAt_run ?_ h
    exact keepsAt_resolveRead hA.stable (fun k hk => hA.areg k hk) (fun _ _ hu => keepsAt_get_bind (keepsAt_finish
      hA.stable (hA.operand hwf (fun _ hk => hk) (fun _ hk => hk) hu) (fun w => hA.flags _ w (by simp [FlagsOk,
      writesNoFlag, keepsX, writesZOnly]))))
  | moveFromSr e =>
    refine keepsAt_run ?_ h
    exact keepsAt_resolveWrite hA hwf (fun _ hk => hk) (fun _ hk => hk) (fun _ hk => hk) (fun hw => keepsAt_get_bind
      (keepsAt_writeH hA.stable (hw _)))
  | chk e n =>
    refine keepsAt_run ?_ h
    exact keepsAt_readEa hA.stable (fun k hk => hA.areg k hk) (fun _ u _ => keepsAt_get_bind (keepsAt_drawFree
      hA.stable (hA.drawn rfl) (fun _ w _ => keepsAt_chkTail hA)))
  | lea e n =>
    refine keepsAt_run ?_ h
    exact keepsAt_eaAddress hA hwf (fun _ _ => keepsAt_ok rfl (hA.areg n (by simp [writesA]) _ _))
  | clr sz e =>
    refine keepsAt_run ?_ h
    exact keepsAt_resolveWrite hA hwf (fun _ hk => hk) (fun _ hk => hk) (fun _ hk => hk) (fun hw => keepsAt_finish
      hA.stable (hw _) (fun w => hA.flags _ w (by simp [FlagsOk, writesNoFlag, keepsX, writesZOnly, ccrLogic])))
  | neg sz e =>
    refine keepsAt_run ?_ h
    exact keepsAt_resolveRead hA.stable (fun k hk => hA.areg k hk) (fun _ _ hu => keepsAt_finish hA.stable
      (hA.operand hwf (fun _ hk => hk) (fun _ hk => hk) hu) (fun w => hA.flags _ w (by simp [FlagsOk, writesNoFlag,
      keepsX, writesZOnly])))
  | moveToCcr e =>
    refine keepsAt_run ?_ h
    exact keepsAt_readEa hA.stable (fun k hk => hA.areg k hk) (fun _ u _ => keepsAt_ok rfl (hA.flags _ u (by simp
      [FlagsOk, writesNoFlag, keepsX, writesZOnly])))
  | not sz e =>
    refine keepsAt_run ?_ h
    exact keepsAt_resolveRead hA.stable (fun k hk => hA.areg k hk) (fun _ _ hu => keepsAt_finish hA.stable
      (hA.operand hwf (fun _ hk => hk) (fun _ hk => hk) hu) (fun w => hA.flags _ w (by simp [FlagsOk, writesNoFlag,
      keepsX, writesZOnly, ccrLogic])))
  | moveToSr e =>
    refine keepsAt_run ?_ h
    exact keepsAt_privileged hA (by simp [raisesVector, isPrivileged]) (keepsAt_readEa hA.stable (fun k hk => hA.areg
      k (List.mem_append_left _ hk)) (fun _ u _ => keepsAt_ok rfl (hA.sr rfl _ u)))
  | nbcd e =>
    refine keepsAt_run ?_ h
    exact keepsAt_resolveRead hA.stable (fun k hk => hA.areg k hk) (fun _ _ hu => keepsAt_get_bind (keepsAt_drawFree
      hA.stable (hA.drawn rfl) (fun _ _ hw => keepsAt_finish hA.stable (hA.operand hwf (fun _ hk => hk) (fun _ hk =>
      hk) (hw.trans hu)) (fun w => hA.flags _ w (by simp [FlagsOk, writesNoFlag, keepsX, writesZOnly])))))
  | swap n =>
    have h : execSwap n s = .next t := h
    unfold execSwap at h
    refine keepsAt_run ?_ h
    exact keepsAt_get_bind (keepsAt_modify_bind hA.stable (hA.dreg n (by simp [writesD]) _ _) (keeps_putFlags (fun w
      => hA.flags _ w (by simp [FlagsOk, writesNoFlag, keepsX, writesZOnly, ccrLogic])) _))
  | pea e =>
    refine keepsAt_run ?_ h
    exact keepsAt_eaAddress hA hwf (fun _ _ => keepsAt_pushLast hA (by simp [writesA]) rfl rfl (fun _ hk => hk))
  | extW n =>
    have h : execExtW n s = .next t := h
    unfold execExtW at h
    refine keepsAt_run ?_ h
    exact keepsAt_get_bind (keepsAt_bind hA.stable (keeps_putD (fun v u => hA.dreg n (by simp [writesD]) v u) s) (fun
      _ t _ _ => keeps_putFlags (fun w => hA.flags _ w (by simp [FlagsOk, writesNoFlag, keepsX, writesZOnly,
      ccrLogic])) t))
  | extL n =>
    have h : execExtL n s = .next t := h
    unfold execExtL at h
    refine keepsAt_run ?_ h
    exact keepsAt_get_bind (keepsAt_bind hA.stable (keeps_putD (fun v u => hA.dreg n (by simp [writesD]) v u) s) (fun
      _ t _ _ => keeps_putFlags (fun w => hA.flags _ w (by simp [FlagsOk, writesNoFlag, keepsX, writesZOnly,
      ccrLogic])) t))
  | movemToMem sz e =>
    have hc := (Bool.and_eq_true _ _ ▸ hwf : _ ∧ _).2
    cases e with
    | pre k => exact keepsAt_run (keepsAt_movemDown hA) h
    | dn k => cases hc
    | an k => cases hc
    | post k => cases hc
    | _ => exact keepsAt_run (keepsAt_movemUp hA rfl) h
  | movemToRegs sz e =>
    have hc := (Bool.and_eq_true _ _ ▸ hwf : _ ∧ _).2
    cases e with
    | post k => exact keepsAt_run (keepsAt_movemPost hA) h
    | dn k => cases hc
    | an k => cases hc
    | pre k => cases hc
    | _ => exact keepsAt_run (keepsAt_movemLoad hA rfl) h
  | tst sz e =>
    refine keepsAt_run ?_ h
    exact keepsAt_readEa hA.stable (fun k hk => hA.areg k hk) (fun _ u _ => keeps_putFlags (fun w => hA.flags _ w (by
      simp [FlagsOk, writesNoFlag, keepsX, writesZOnly, ccrLogic])) u)
  | tas e =>
    refine keepsAt_run ?_ h
    exact keepsAt_resolveRead hA.stable (fun k hk => hA.areg k hk) (fun _ _ hu => keepsAt_finish hA.stable
      (hA.operand hwf (fun _ hk => hk) (fun _ hk => hk) hu) (fun w => hA.flags _ w (by simp [FlagsOk, writesNoFlag,
      keepsX, writesZOnly, ccrLogic])))
  | illegal =>
    have h : execIllegal s = .next t := h
    unfold execIllegal at h
    refine keepsAt_run ?_ h
    exact keeps_raiseIllegal (fun u => keeps_rewind hA (by simp [raisesVector]) u) s
  | trap v =>
    have h : execTrap v s = .next t := h
    unfold execTrap at h
    refine keepsAt_run ?_ h
    exact keeps_raise (fun u => hA.raise _ (by simp [raisesVector]) u) s
  | link n =>
    refine keepsAt_run ?_ h
    exact keepsAt_link hA
  | unlk n =>
    refine keepsAt_run ?_ h
    exact keepsAt_unlk hA
  | moveToUsp n =>
    refine keepsAt_run ?_ h
    exact keepsAt_privileged hA (by simp [raisesVector, isPrivileged]) (keepsAt_ok rfl (hA.usp ⟨n, rfl⟩ _ s))
  | moveFromUsp n =>
    refine keepsAt_run ?_ h
    exact keepsAt_privileged hA (by simp [raisesVector, isPrivileged]) (keepsAt_ok rfl (hA.areg n (by simp [writesA])
      _ s))
  | reset =>
    refine keepsAt_run ?_ h
    exact keeps_requireSupervisor hA.stable (fun u _ => keeps_rewind hA (by simp [raisesVector, isPrivileged]) u) s
  | nop =>
    have h : execNop s = .next t := h
    unfold execNop at h
    refine keepsAt_run ?_ h
    exact keeps_pure hA.stable () s
  | stop =>
    refine keepsAt_run ?_ h
    exact keepsAt_privileged hA (by simp [raisesVector, isPrivileged]) (keepsAt_fetchWord hA (keepsAt_modify_bind
      hA.stable (hA.sr rfl _ _) (keepsAt_ok rfl (hA.halt rfl _))))
  | rte =>
    refine keepsAt_run ?_ h
    exact keepsAt_privileged hA (by simp [raisesVector, isPrivileged]) (keepsAt_rte hA rfl (by simp [writesA]))
  | rts =>
    refine keepsAt_run ?_ h
    exact keepsAt_bind hA.stable (keeps_pop hA.stable (fun w u => hA.areg 7 (by simp [writesA]) w u) s) (fun a t _ _
      => keeps_loadPc hA.stable a t)
  | trapv =>
    refine keepsAt_run ?_ h
    exact keepsAt_get_bind (keeps_ite (keeps_raise (fun u => hA.raise _ (by simp [raisesVector]) u)) (keeps_pure
      hA.stable ()) s)
  | rtr =>
    refine keepsAt_run ?_ h
    exact keepsAt_rtr hA
  | jsr e =>
    refine keepsAt_run ?_ h
    exact keepsAt_eaAddress hA hwf (fun a _ => keepsAt_get_bind (keepsAt_pushThen hA (by simp [writesA]) rfl rfl (fun
      _ hk => hk) (fun w => keeps_loadPc hA.stable a w)))
  | jmp e =>
    refine keepsAt_run ?_ h
    exact keepsAt_eaAddress hA hwf (fun a _ => keeps_loadPc hA.stable a _)
  | addq sz q e =>
    cases e with
    | an k =>
      have h : execAddq sz q (.an k) s = .next t := h
      unfold execAddq at h
      refine keepsAt_run (keepsAt_ok (M.modify_apply _ s) ?_) h
      exact hA.areg k (by simp [writesA, eaA, eaStepped]) _ s
    | _ => exact keepsAt_run (keepsAt_aluQuickEa hA addF rfl (fun _ hk => List.mem_append_left _ hk) (fun _ hk => hk)
        (fun _ hk => hk) (fun _ _ => by simp [FlagsOk, writesNoFlag, keepsX, writesZOnly])) h
  | subq sz q e =>
    cases e with
    | an k =>
      have h : execSubq sz q (.an k) s = .next t := h
      unfold execSubq at h
      refine keepsAt_run (keepsAt_ok (M.modify_apply _ s) ?_) h
      exact hA.areg k (by simp [writesA, eaA, eaStepped]) _ s
    | _ => exact keepsAt_run (keepsAt_aluQuickEa hA subF rfl (fun _ hk => List.mem_append_left _ hk) (fun _ hk => hk)
        (fun _ hk => hk) (fun _ _ => by simp [FlagsOk, writesNoFlag, keepsX, writesZOnly])) h
  | scc cond e =>
    refine keepsAt_run ?_ h
    exact keepsAt_resolveWrite hA hwf (fun _ hk => hk) (fun _ hk => hk) (fun _ hk => hk) (fun hw => keepsAt_get_bind
      (keepsAt_writeH hA.stable (hw _)))
  | dbcc cond n =>
    refine keepsAt_run ?_ h
    exact keepsAt_dbcc hA
  | bra d =>
    refine keepsAt_run ?_ h
    exact keepsAt_get_bind (keepsAt_bind hA.stable (keeps_fetchBranchDisp hA.stable d s) (fun a t _ _ => keeps_loadPc
      hA.stable _ t))
  | bsr d =>
    refine keepsAt_run ?_ h
    exact keepsAt_get_bind (keepsAt_fetchBranchDisp hA (fun _ => keepsAt_get_bind (keepsAt_pushThen hA (by simp
      [writesA]) rfl rfl (fun _ hk => hk) (fun w => keeps_loadPc hA.stable _ w))))
  | bcc cond d =>
    refine keepsAt_run ?_ h
    exact keepsAt_get_bind (keepsAt_bind hA.stable (keeps_fetchBranchDisp hA.stable d s) (fun a t _ _ =>
      keepsAt_get_bind (keeps_ite (keeps_loadPc hA.stable _) (keeps_pure hA.stable ()) t)))
  | moveq data n =>
    have h : execMoveq data n s = .next t := h
    unfold execMoveq at h
    refine keepsAt_run ?_ h
    exact keepsAt_modify_bind hA.stable (hA.dreg n (by simp [writesD]) _ _) (keeps_putFlags (fun w => hA.flags _ w
      (by simp [FlagsOk, writesNoFlag, keepsX, writesZOnly, ccrLogic])) _)
  | orEaDn sz e n =>
    refine keepsAt_run ?_ h
    exact keepsAt_logicEaDn hA _ (fun _ hk => hk) (by simp [writesD]) (fun _ _ => (by simp [FlagsOk, writesNoFlag,
      keepsX, writesZOnly, ccrLogic]))
  | orDnEa sz n e =>
    refine keepsAt_run ?_ h
    exact keepsAt_logicDnEa hA _ (data_of_mem hwf) (fun _ hk => hk) (no_dreg hwf) (fun _ hk => hk) (fun _ _ => (by
      simp [FlagsOk, writesNoFlag, keepsX, writesZOnly, ccrLogic]))
  | divu e n =>
    refine keepsAt_run ?_ h
    exact keepsAt_readEa hA.stable (fun k hk => hA.areg k hk) (fun _ u _ => keepsAt_get_bind (keepsAt_divTail hA (by
      simp [writesD]) (by simp [raisesVector]) rfl (fun _ _ => (by simp [FlagsOk, writesNoFlag, keepsX, writesZOnly,
      ccrDivOverflow])) (fun _ => (by simp [FlagsOk, writesNoFlag, keepsX, writesZOnly, ccrMulDiv]))))
  | divs e n =>
    refine keepsAt_run ?_ h
    exact keepsAt_readEa hA.stable (fun k hk => hA.areg k hk) (fun _ u _ => keepsAt_get_bind (keepsAt_divTail hA (by
      simp [writesD]) (by simp [raisesVector]) rfl (fun _ _ => (by simp [FlagsOk, writesNoFlag, keepsX, writesZOnly,
      ccrDivOverflow])) (fun _ => (by simp [FlagsOk, writesNoFlag, keepsX, writesZOnly, ccrMulDiv]))))
  | sbcd form x y =>
    refine keepsAt_run ?_ h
    exact keepsAt_bcdPair hA _ rfl (fun h => by subst h; simp [writesD]) (fun h => by subst h; simp [writesA]) (fun h
      => by subst h; simp [writesA]) (fun h => by subst h; exact fun _ hb => hb) (fun _ _ => (by simp [FlagsOk,
      writesNoFlag, keepsX, writesZOnly]))
  | subEaDn sz e n =>
    refine keepsAt_run ?_ h
    exact keepsAt_aluEaDn hA _ (fun _ hk => hk) (by simp [writesD]) (fun _ _ => (by simp [FlagsOk, writesNoFlag,
      keepsX, writesZOnly]))
  | subDnEa sz n e =>
    refine keepsAt_run ?_ h
    exact keepsAt_aluDnEa hA _ (data_of_mem hwf) (fun _ hk => hk) (no_dreg hwf) (fun _ hk => hk) (fun _ _ => (by simp
      [FlagsOk, writesNoFlag, keepsX, writesZOnly]))
  | subaW e n =>
    refine keepsAt_run ?_ h
    exact keepsAt_readEa hA.stable (fun k hk => hA.areg k (List.mem_append_left _ hk)) (fun _ u _ => keepsAt_ok rfl
      (hA.areg n (by simp [writesA]) _ u))
  | subaL e n =>
    refine keepsAt_run ?_ h
    exact keepsAt_readEa hA.stable (fun k hk => hA.areg k (List.mem_append_left _ hk)) (fun _ u _ => keepsAt_ok rfl
      (hA.areg n (by simp [writesA]) _ u))
  | subx sz form x y =>
    refine keepsAt_run ?_ h
    exact keepsAt_aluX hA _ (fun h => by subst h; simp [writesD]) (fun h => by subst h; simp [writesA]) (fun h => by
      subst h; simp [writesA]) (fun h => by subst h; exact fun _ hb => hb) (fun _ _ => (by simp [FlagsOk,
      writesNoFlag, keepsX, writesZOnly]))
  | cmp sz e n =>
    refine keepsAt_run ?_ h
    exact keepsAt_readEa hA.stable (fun k hk => hA.areg k hk) (fun _ u _ => keepsAt_getD hA.stable (fun _ =>
      keeps_putFlags (fun w => hA.flags _ w (by simp [FlagsOk, writesNoFlag, keepsX, writesZOnly, ccrCompare])) u))
  | cmpaW e n =>
    refine keepsAt_run ?_ h
    exact keepsAt_readEa hA.stable (fun k hk => hA.areg k hk) (fun _ u _ => keepsAt_get_bind (keeps_putFlags (fun w
      => hA.flags _ w (by simp [FlagsOk, writesNoFlag, keepsX, writesZOnly, ccrCompare])) u))
  | cmpaL e n =>
    refine keepsAt_run ?_ h
    exact keepsAt_readEa hA.stable (fun k hk => hA.areg k hk) (fun _ u _ => keepsAt_get_bind (keeps_putFlags (fun w
      => hA.flags _ w (by simp [FlagsOk, writesNoFlag, keepsX, writesZOnly, ccrCompare])) u))
  | eor sz n e =>
    refine keepsAt_run ?_ h
    exact keepsAt_logicDnEa hA _ hwf (fun _ hk => hk) (fun _ hk => hk) (fun _ hk => hk) (fun _ _ => (by simp
      [FlagsOk, writesNoFlag, keepsX, writesZOnly, ccrLogic]))
  | cmpm sz x y =>
    refine keepsAt_run ?_ h
    exact keepsAt_readEa hA.stable (fun k hk => hA.areg k (by simp [eaStepped] at hk; simp [writesA, hk])) (fun _ u _
      => keepsAt_readEa hA.stable (fun k hk => hA.areg k (by simp [eaStepped] at hk; simp [writesA, hk])) (fun _ u _
      => keeps_putFlags (fun w => hA.flags _ w (by simp [FlagsOk, writesNoFlag, keepsX, writesZOnly, ccrCompare]))
      u))
  | andEaDn sz e n =>
    refine keepsAt_run ?_ h
    exact keepsAt_logicEaDn hA _ (fun _ hk => hk) (by simp [writesD]) (fun _ _ => (by simp [FlagsOk, writesNoFlag,
      keepsX, writesZOnly, ccrLogic]))
  | andDnEa sz n e =>
    refine keepsAt_run ?_ h
    exact keepsAt_logicDnEa hA _ (data_of_mem hwf) (fun _ hk => hk) (no_dreg hwf) (fun _ hk => hk) (fun _ _ => (by
      simp [FlagsOk, writesNoFlag, keepsX, writesZOnly, ccrLogic]))
  | mulu e n =>
    refine keepsAt_run ?_ h
    exact keepsAt_readEa hA.stable (fun k hk => hA.areg k hk) (fun _ u _ => keepsAt_get_bind (keepsAt_modify_bind
      hA.stable (hA.dreg n (by simp [writesD]) _ _) (keeps_putFlags (fun w => hA.flags _ w (by simp [FlagsOk,
      writesNoFlag, keepsX, writesZOnly, ccrMulDiv])) _)))
  | muls e n =>
    refine keepsAt_run ?_ h
    exact keepsAt_readEa hA.stable (fun k hk => hA.areg k hk) (fun _ u _ => keepsAt_get_bind (keepsAt_modify_bind
      hA.stable (hA.dreg n (by simp [writesD]) _ _) (keeps_putFlags (fun w => hA.flags _ w (by simp [FlagsOk,
      writesNoFlag, keepsX, writesZOnly, ccrMulDiv])) _)))
  | abcd form x y =>
    refine keepsAt_run ?_ h
    exact keepsAt_bcdPair hA _ rfl (fun h => by subst h; simp [writesD]) (fun h => by subst h; simp [writesA]) (fun h
      => by subst h; simp [writesA]) (fun h => by subst h; exact fun _ hb => hb) (fun _ _ => (by simp [FlagsOk,
      writesNoFlag, keepsX, writesZOnly]))
  | exgDD x y =>
    have h : execExgDD x y s = .next t := h
    unfold execExgDD at h
    refine keepsAt_run ?_ h
    exact keepsAt_ok rfl (hA.stable.trans _ _ _ (hA.dreg x (by simp [writesD]) _ _) (hA.dreg y (by simp [writesD]) _
      _))
  | exgAA x y =>
    have h : execExgAA x y s = .next t := h
    unfold execExgAA at h
    refine keepsAt_run ?_ h
    exact keepsAt_ok rfl (hA.stable.trans _ _ _ (hA.areg x (by simp [writesA]) _ _) (hA.areg y (by simp [writesA]) _
      _))
  | exgDA x y =>
    have h : execExgDA x y s = .next t := h
    unfold execExgDA at h
    refine keepsAt_run ?_ h
    exact keepsAt_ok rfl (hA.stable.trans _ _ _ (hA.dreg x (by simp [writesD]) _ _) (hA.areg y (by simp [writesA]) _
      _))
  | addEaDn sz e n =>
    refine keepsAt_run ?_ h
    exact keepsAt_aluEaDn hA _ (fun _ hk => hk) (by simp [writesD]) (fun _ _ => (by simp [FlagsOk, writesNoFlag,
      keepsX, writesZOnly]))
  | addDnEa sz n e =>
    refine keepsAt_run ?_ h
    exact keepsAt_aluDnEa hA _ (data_of_mem hwf) (fun _ hk => hk) (no_dreg hwf) (fun _ hk => hk) (fun _ _ => (by simp
      [FlagsOk, writesNoFlag, keepsX, writesZOnly]))
  | addaW e n =>
    refine keepsAt_run ?_ h
    exact keepsAt_readEa hA.stable (fun k hk => hA.areg k (List.mem_append_left _ hk)) (fun _ u _ => keepsAt_ok rfl
      (hA.areg n (by simp [writesA]) _ u))
  | addaL e n =>
    refine keepsAt_run ?_ h
    exact keepsAt_readEa hA.stable (fun k hk => hA.areg k (List.mem_append_left _ hk)) (fun _ u _ => keepsAt_ok rfl
      (hA.areg n (by simp [writesA]) _ u))
  | addx sz form x y =>
    refine keepsAt_run ?_ h
    exact keepsAt_aluX hA _ (fun h => by subst h; simp [writesD]) (fun h => by subst h; simp [writesA]) (fun h => by
      subst h; simp [writesA]) (fun h => by subst h; exact fun _ hb => hb) (fun _ _ => (by simp [FlagsOk,
      writesNoFlag, keepsX, writesZOnly]))
  | asrReg sz c n =>
    have h : execAsrReg sz c n s = .next t := h
    unfold execAsrReg at h
    refine keepsAt_run ?_ h
    exact keepsAt_shiftReg hA _ _ (by simp [writesD]) (fun _ _ _ => (by simp [FlagsOk, writesNoFlag, keepsX,
      writesZOnly, ccrShift]))
  | asrMem e =>
    refine keepsAt_run ?_ h
    exact keepsAt_shiftMem hA _ _ (data_of_mem hwf) (fun _ hk => hk) (no_dreg hwf) (fun _ hk => hk) (fun _ _ _ => (by
      simp [FlagsOk, writesNoFlag, keepsX, writesZOnly, ccrShift]))
  | aslReg sz c n =>
    have h : execAslReg sz c n s = .next t := h
    unfold execAslReg at h
    refine keepsAt_run ?_ h
    exact keepsAt_shiftReg hA _ _ (by simp [writesD]) (fun _ _ _ => (by simp [FlagsOk, writesNoFlag, keepsX,
      writesZOnly, ccrAsl]))
  | aslMem e =>
    refine keepsAt_run ?_ h
    exact keepsAt_shiftMem hA _ _ (data_of_mem hwf) (fun _ hk => hk) (no_dreg hwf) (fun _ hk => hk) (fun _ _ _ => (by
      simp [FlagsOk, writesNoFlag, keepsX, writesZOnly, ccrAsl]))
  | lsrReg sz c n =>
    have h : execLsrReg sz c n s = .next t := h
    unfold execLsrReg at h
    refine keepsAt_run ?_ h
    exact keepsAt_shiftReg hA _ _ (by simp [writesD]) (fun _ _ _ => (by simp [FlagsOk, writesNoFlag, keepsX,
      writesZOnly, ccrShift]))
  | lsrMem e =>
    refine keepsAt_run ?_ h
    exact keepsAt_shiftMem hA _ _ (data_of_mem hwf) (fun _ hk => hk) (no_dreg hwf) (fun _ hk => hk) (fun _ _ _ => (by
      simp [FlagsOk, writesNoFlag, keepsX, writesZOnly, ccrShift]))
  | lslReg sz c n =>
    have h : execLslReg sz c n s = .next t := h
    unfold execLslReg at h
    refine keepsAt_run ?_ h
    exact keepsAt_shiftReg hA _ _ (by simp [writesD]) (fun _ _ _ => (by simp [FlagsOk, writesNoFlag, keepsX,
      writesZOnly, ccrShift]))
  | lslMem e =>
    refine keepsAt_run ?_ h
    exact keepsAt_shiftMem hA _ _ (data_of_mem hwf) (fun _ hk => hk) (no_dreg hwf) (fun _ hk => hk) (fun _ _ _ => (by
      simp [FlagsOk, writesNoFlag, keepsX, writesZOnly, ccrShift]))
  | roxrReg sz c n =>
    have h : execRoxrReg sz c n s = .next t := h
    unfold execRoxrReg at h
    refine keepsAt_run ?_ h
    exact keepsAt_shiftReg hA _ _ (by simp [writesD]) (fun _ _ _ => (by simp [FlagsOk, writesNoFlag, keepsX,
      writesZOnly, ccrRotateX]))
  | roxrMem e =>
    refine keepsAt_run ?_ h
    exact keepsAt_shiftMem hA _ _ (data_of_mem hwf) (fun _ hk => hk) (no_dreg hwf) (fun _ hk => hk) (fun _ _ _ => (by
      simp [FlagsOk, writesNoFlag, keepsX, writesZOnly, ccrRotateX]))
  | roxlReg sz c n =>
    have h : execRoxlReg sz c n s = .next t := h
    unfold execRoxlReg at h
    refine keepsAt_run ?_ h
    exact keepsAt_shiftReg hA _ _ (by simp [writesD]) (fun _ _ _ => (by simp [FlagsOk, writesNoFlag, keepsX,
      writesZOnly, ccrRotateX]))
  | roxlMem e =>
    refine keepsAt_run ?_ h
    exact keepsAt_shiftMem hA _ _ (data_of_mem hwf) (fun _ hk => hk) (no_dreg hwf) (fun _ hk => hk) (fun _ _ _ => (by
      simp [FlagsOk, writesNoFlag, keepsX, writesZOnly, ccrRotateX]))
  | rorReg sz c n =>
    have h : execRorReg sz c n s = .next t := h
    unfold execRorReg at h
    refine keepsAt_run ?_ h
    exact keepsAt_shiftReg hA _ _ (by simp [writesD]) (fun _ _ _ => (by simp [FlagsOk, writesNoFlag, keepsX,
      writesZOnly, ccrRotate]))
  | rorMem e =>
    refine keepsAt_run ?_ h
    exact keepsAt_shiftMem hA _ _ (data_of_mem hwf) (fun _ hk => hk) (no_dreg hwf) (fun _ hk => hk) (fun _ _ _ => (by
      simp [FlagsOk, writesNoFlag, keepsX, writesZOnly, ccrRotate]))
  | rolReg sz c n =>
    have h : execRolReg sz c n s = .next t := h
    unfold execRolReg at h
    refine keepsAt_run ?_ h
    exact keepsAt_shiftReg hA _ _ (by simp [writesD]) (fun _ _ _ => (by simp [FlagsOk, writesNoFlag, keepsX,
      writesZOnly, ccrRotate]))
  | rolMem e =>
    refine keepsAt_run ?_ h
    exact keepsAt_shiftMem hA _ _ (data_of_mem hwf) (fun _ hk => hk) (no_dreg hwf) (fun _ hk => hk) (fun _ _ _ => (by
      simp [FlagsOk, writesNoFlag, keepsX, writesZOnly, ccrRotate]))

end Sys2Proof.Machine
end

