-- ==== Sys2Proof/Laws/PerInstr.lean ====
section
/-! SUPPORT. The family Encoding: every instruction's encoding fits the 16 bits of an opcode word, so that no field is
cut off by `encodeOp` (R100, R117); one lemma per constructor. -/
namespace Sys2Proof.Laws

theorem eaField_lt (e : Ea) : eaField e < 64 := by
  cases e <;> simp [eaField, eaMode, eaReg] <;> omega

theorem ssOfSize_le (sz : Size) : ssOfSize sz ≤ 2 := by cases sz <;> simp [ssOfSize]

theorem moveOfSize_le (sz : Size) : moveOfSize sz ≤ 3 := by cases sz <;> simp [moveOfSize]

theorem bitOfSize_le (sz : Size) : bitOfSize sz ≤ 1 := by cases sz <;> simp [bitOfSize]

theorem pairBit_le (f : PairForm) : pairBit f ≤ 1 := by cases f <;> simp [pairBit]

theorem codeOfCond_lt (c : Cond) : codeOfCond c < 16 := by cases c <;> simp [codeOfCond]

theorem encSizeEa_lt (op : Nat) (sz : Size) (e : Ea) : encSizeEa op sz e < op + 192 := by
  have := eaField_lt e
  have := ssOfSize_le sz
  simp only [encSizeEa]
  omega

theorem encRegEa_lt (op : Nat) (n : Fin 8) (sz : Size) (e : Ea) : encRegEa op n sz e < op + 3776 := by
  have := eaField_lt e
  have := ssOfSize_le sz
  simp only [encRegEa]
  omega

theorem encNEa_lt (op : Nat) (n : Fin 8) (e : Ea) : encNEa op n e < op + 3648 := by
  have := eaField_lt e
  simp only [encNEa]
  omega

theorem encRR_lt (op : Nat) (x y : Fin 8) : encRR op x y < op + 3592 := by
  simp only [encRR]
  omega

theorem encShift_lt (op : Nat) (sz : Size) (c : ShiftCount) (n : Fin 8) : encShift op sz c n < op + 3752 := by
  have := ssOfSize_le sz
  cases c <;> simp only [encShift] <;> omega

theorem eaMode_le (e : Ea) : eaMode e ≤ 7 := by cases e <;> simp [eaMode]

theorem eaReg_le (e : Ea) : eaReg e ≤ 7 := by cases e <;> simp [eaReg] <;> omega

end Sys2Proof.Laws

namespace Sys2Proof.Laws.Encoding

/-- The encoding fits an opcode word. -/
def Statement (i : Instr) : Prop := (encodeOp i).toNat = encodeNat i

theorem of_lt {i : Instr} (h : encodeNat i < 65536) : Statement i := by
  simp only [Statement, encodeOp, BitVec.toNat_ofNat]
  omega

theorem ori (sz : Size) (e : Ea) : Statement (.ori sz e) := by
  refine of_lt ?_
  have := encSizeEa_lt 0x0000 sz e
  show encSizeEa 0x0000 sz e < 65536
  omega

theorem oriToCcr : Statement .oriToCcr := rfl

theorem oriToSr : Statement .oriToSr := rfl

theorem andi (sz : Size) (e : Ea) : Statement (.andi sz e) := by
  refine of_lt ?_
  have := encSizeEa_lt 0x0200 sz e
  show encSizeEa 0x0200 sz e < 65536
  omega

theorem andiToCcr : Statement .andiToCcr := rfl

theorem andiToSr : Statement .andiToSr := rfl

theorem subi (sz : Size) (e : Ea) : Statement (.subi sz e) := by
  refine of_lt ?_
  have := encSizeEa_lt 0x0400 sz e
  show encSizeEa 0x0400 sz e < 65536
  omega

theorem addi (sz : Size) (e : Ea) : Statement (.addi sz e) := by
  refine of_lt ?_
  have := encSizeEa_lt 0x0600 sz e
  show encSizeEa 0x0600 sz e < 65536
  omega

theorem eori (sz : Size) (e : Ea) : Statement (.eori sz e) := by
  refine of_lt ?_
  have := encSizeEa_lt 0x0A00 sz e
  show encSizeEa 0x0A00 sz e < 65536
  omega

theorem eoriToCcr : Statement .eoriToCcr := rfl

theorem eoriToSr : Statement .eoriToSr := rfl

theorem cmpi (sz : Size) (e : Ea) : Statement (.cmpi sz e) := by
  refine of_lt ?_
  have := encSizeEa_lt 0x0C00 sz e
  show encSizeEa 0x0C00 sz e < 65536
  omega

theorem btst (e : Ea) : Statement (.btst e) := by
  refine of_lt ?_
  have := eaField_lt e
  show 0x0800 + eaField e < 65536
  omega

theorem btstDn (n : Fin 8) (e : Ea) : Statement (.btstDn n e) := by
  refine of_lt ?_
  have := encNEa_lt 0x0100 n e
  show encNEa 0x0100 n e < 65536
  omega

theorem bchg (e : Ea) : Statement (.bchg e) := by
  refine of_lt ?_
  have := eaField_lt e
  show 0x0840 + eaField e < 65536
  omega

theorem bchgDn (n : Fin 8) (e : Ea) : Statement (.bchgDn n e) := by
  refine of_lt ?_
  have := encNEa_lt 0x0140 n e
  show encNEa 0x0140 n e < 65536
  omega

theorem bclr (e : Ea) : Statement (.bclr e) := by
  refine of_lt ?_
  have := eaField_lt e
  show 0x0880 + eaField e < 65536
  omega

theorem bclrDn (n : Fin 8) (e : Ea) : Statement (.bclrDn n e) := by
  refine of_lt ?_
  have := encNEa_lt 0x0180 n e
  show encNEa 0x0180 n e < 65536
  omega

theorem bset (e : Ea) : Statement (.bset e) := by
  refine of_lt ?_
  have := eaField_lt e
  show 0x08C0 + eaField e < 65536
  omega

theorem bsetDn (n : Fin 8) (e : Ea) : Statement (.bsetDn n e) := by
  refine of_lt ?_
  have := encNEa_lt 0x01C0 n e
  show encNEa 0x01C0 n e < 65536
  omega

theorem movep (dir : MovepDir) (sz : Size) (x : Fin 8) (y : Fin 8) : Statement (.movep dir sz x y) := by
  refine of_lt ?_
  have := encRR_lt 0x0108 x y
  have := bitOfSize_le sz
  show encRR 0x0108 x y + (match dir with | .memToReg => 0 | .regToMem => 128) + bitOfSize sz * 64 < 65536
  cases dir <;> simp only <;> omega

theorem move (sz : Size) (src : Ea) (dst : Ea) : Statement (.move sz src dst) := by
  refine of_lt ?_
  have := eaField_lt src
  have := moveOfSize_le sz
  have := eaMode_le dst
  have := eaReg_le dst
  show moveOfSize sz * 4096 + eaReg dst * 512 + eaMode dst * 64 + eaField src < 65536
  omega

theorem movea (sz : Size) (src : Ea) (n : Fin 8) : Statement (.movea sz src n) := by
  refine of_lt ?_
  have := eaField_lt src
  have := moveOfSize_le sz
  show moveOfSize sz * 4096 + n.val * 512 + 64 + eaField src < 65536
  omega

theorem negx (sz : Size) (e : Ea) : Statement (.negx sz e) := by
  refine of_lt ?_
  have := encSizeEa_lt 0x4000 sz e
  show encSizeEa 0x4000 sz e < 65536
  omega

theorem moveFromSr (e : Ea) : Statement (.moveFromSr e) := by
  refine of_lt ?_
  have := eaField_lt e
  show 0x40C0 + eaField e < 65536
  omega

theorem chk (e : Ea) (n : Fin 8) : Statement (.chk e n) := by
  refine of_lt ?_
  have := encNEa_lt 0x4180 n e
  show encNEa 0x4180 n e < 65536
  omega

theorem lea (e : Ea) (n : Fin 8) : Statement (.lea e n) := by
  refine of_lt ?_
  have := encNEa_lt 0x41C0 n e
  show encNEa 0x41C0 n e < 65536
  omega

theorem clr (sz : Size) (e : Ea) : Statement (.clr sz e) := by
  refine of_lt ?_
  have := encSizeEa_lt 0x4200 sz e
  show encSizeEa 0x4200 sz e < 65536
  omega

theorem neg (sz : Size) (e : Ea) : Statement (.neg sz e) := by
  refine of_lt ?_
  have := encSizeEa_lt 0x4400 sz e
  show encSizeEa 0x4400 sz e < 65536
  omega

theorem moveToCcr (e : Ea) : Statement (.moveToCcr e) := by
  refine of_lt ?_
  have := eaField_lt e
  show 0x44C0 + eaField e < 65536
  omega

theorem not (sz : Size) (e : Ea) : Statement (.not sz e) := by
  refine of_lt ?_
  have := encSizeEa_lt 0x4600 sz e
  show encSizeEa 0x4600 sz e < 65536
  omega

theorem moveToSr (e : Ea) : Statement (.moveToSr e) := by
  refine of_lt ?_
  have := eaField_lt e
  show 0x46C0 + eaField e < 65536
  omega

theorem nbcd (e : Ea) : Statement (.nbcd e) := by
  refine of_lt ?_
  have := eaField_lt e
  show 0x4800 + eaField e < 65536
  omega

theorem swap (n : Fin 8) : Statement (.swap n) := by
  refine of_lt ?_
  show 0x4840 + n.val < 65536
  omega

theorem pea (e : Ea) : Statement (.pea e) := by
  refine of_lt ?_
  have := eaField_lt e
  show 0x4840 + eaField e < 65536
  omega

theorem extW (n : Fin 8) : Statement (.extW n) := by
  refine of_lt ?_
  show 0x4880 + n.val < 65536
  omega

theorem extL (n : Fin 8) : Statement (.extL n) := by
  refine of_lt ?_
  show 0x48C0 + n.val < 65536
  omega

theorem movemToMem (sz : Size) (e : Ea) : Statement (.movemToMem sz e) := by
  refine of_lt ?_
  have := eaField_lt e
  have := bitOfSize_le sz
  show 0x4880 + bitOfSize sz * 64 + eaField e < 65536
  omega

theorem movemToRegs (sz : Size) (e : Ea) : Statement (.movemToRegs sz e) := by
  refine of_lt ?_
  have := eaField_lt e
  have := bitOfSize_le sz
  show 0x4C80 + bitOfSize sz * 64 + eaField e < 65536
  omega

theorem tst (sz : Size) (e : Ea) : Statement (.tst sz e) := by
  refine of_lt ?_
  have := encSizeEa_lt 0x4A00 sz e
  show encSizeEa 0x4A00 sz e < 65536
  omega

theorem tas (e : Ea) : Statement (.tas e) := by
  refine of_lt ?_
  have := eaField_lt e
  show 0x4AC0 + eaField e < 65536
  omega

theorem illegal : Statement .illegal := rfl

theorem trap (v : Fin 16) : Statement (.trap v) := by
  refine of_lt ?_
  show 0x4E40 + v.val < 65536
  omega

theorem link (n : Fin 8) : Statement (.link n) := by
  refine of_lt ?_
  show 0x4E50 + n.val < 65536
  omega

theorem unlk (n : Fin 8) : Statement (.unlk n) := by
  refine of_lt ?_
  show 0x4E58 + n.val < 65536
  omega

theorem moveToUsp (n : Fin 8) : Statement (.moveToUsp n) := by
  refine of_lt ?_
  show 0x4E60 + n.val < 65536
  omega

theorem moveFromUsp (n : Fin 8) : Statement (.moveFromUsp n) := by
  refine of_lt ?_
  show 0x4E68 + n.val < 65536
  omega

theorem reset : Statement .reset := rfl

theorem nop : Statement .nop := rfl

theorem stop : Statement .stop := rfl

theorem rte : Statement .rte := rfl

theorem rts : Statement .rts := rfl

theorem trapv : Statement .trapv := rfl

theorem rtr : Statement .rtr := rfl

theorem jsr (e : Ea) : Statement (.jsr e) := by
  refine of_lt ?_
  have := eaField_lt e
  show 0x4E80 + eaField e < 65536
  omega

theorem jmp (e : Ea) : Statement (.jmp e) := by
  refine of_lt ?_
  have := eaField_lt e
  show 0x4EC0 + eaField e < 65536
  omega

theorem addq (sz : Size) (q : Fin 8) (e : Ea) : Statement (.addq sz q e) := by
  refine of_lt ?_
  have := encRegEa_lt 0x5000 q sz e
  show encRegEa 0x5000 q sz e < 65536
  omega

theorem subq (sz : Size) (q : Fin 8) (e : Ea) : Statement (.subq sz q e) := by
  refine of_lt ?_
  have := encRegEa_lt 0x5100 q sz e
  show encRegEa 0x5100 q sz e < 65536
  omega

theorem scc (c : Cond) (e : Ea) : Statement (.scc c e) := by
  refine of_lt ?_
  have := eaField_lt e
  have := codeOfCond_lt c
  show 0x50C0 + codeOfCond c * 256 + eaField e < 65536
  omega

theorem dbcc (c : Cond) (n : Fin 8) : Statement (.dbcc c n) := by
  refine of_lt ?_
  have := codeOfCond_lt c
  show 0x50C8 + codeOfCond c * 256 + n.val < 65536
  omega

theorem bra (d : Byte) : Statement (.bra d) := by
  refine of_lt ?_
  have := d.isLt
  show 0x6000 + d.toNat < 65536
  omega

theorem bsr (d : Byte) : Statement (.bsr d) := by
  refine of_lt ?_
  have := d.isLt
  show 0x6100 + d.toNat < 65536
  omega

theorem bcc (c : Cond) (d : Byte) : Statement (.bcc c d) := by
  refine of_lt ?_
  have := codeOfCond_lt c
  have := d.isLt
  show 0x6000 + codeOfCond c * 256 + d.toNat < 65536
  omega

theorem moveq (d : Byte) (n : Fin 8) : Statement (.moveq d n) := by
  refine of_lt ?_
  have := d.isLt
  show 0x7000 + n.val * 512 + d.toNat < 65536
  omega

theorem orEaDn (sz : Size) (e : Ea) (n : Fin 8) : Statement (.orEaDn sz e n) := by
  refine of_lt ?_
  have := encRegEa_lt 0x8000 n sz e
  show encRegEa 0x8000 n sz e < 65536
  omega

theorem orDnEa (sz : Size) (n : Fin 8) (e : Ea) : Statement (.orDnEa sz n e) := by
  refine of_lt ?_
  have := encRegEa_lt 0x8100 n sz e
  show encRegEa 0x8100 n sz e < 65536
  omega

theorem divu (e : Ea) (n : Fin 8) : Statement (.divu e n) := by
  refine of_lt ?_
  have := encNEa_lt 0x80C0 n e
  show encNEa 0x80C0 n e < 65536
  omega

theorem divs (e : Ea) (n : Fin 8) : Statement (.divs e n) := by
  refine of_lt ?_
  have := encNEa_lt 0x81C0 n e
  show encNEa 0x81C0 n e < 65536
  omega

theorem sbcd (f : PairForm) (x : Fin 8) (y : Fin 8) : Statement (.sbcd f x y) := by
  refine of_lt ?_
  have := encRR_lt 0x8100 x y
  have := pairBit_le f
  show encRR 0x8100 x y + pairBit f * 8 < 65536
  omega

theorem subEaDn (sz : Size) (e : Ea) (n : Fin 8) : Statement (.subEaDn sz e n) := by
  refine of_lt ?_
  have := encRegEa_lt 0x9000 n sz e
  show encRegEa 0x9000 n sz e < 65536
  omega

theorem subDnEa (sz : Size) (n : Fin 8) (e : Ea) : Statement (.subDnEa sz n e) := by
  refine of_lt ?_
  have := encRegEa_lt 0x9100 n sz e
  show encRegEa 0x9100 n sz e < 65536
  omega

theorem subaW (e : Ea) (n : Fin 8) : Statement (.subaW e n) := by
  refine of_lt ?_
  have := encNEa_lt 0x90C0 n e
  show encNEa 0x90C0 n e < 65536
  omega

theorem subaL (e : Ea) (n : Fin 8) : Statement (.subaL e n) := by
  refine of_lt ?_
  have := encNEa_lt 0x91C0 n e
  show encNEa 0x91C0 n e < 65536
  omega

theorem subx (sz : Size) (f : PairForm) (x : Fin 8) (y : Fin 8) : Statement (.subx sz f x y) := by
  refine of_lt ?_
  have := encRR_lt 0x9100 x y
  have := ssOfSize_le sz
  have := pairBit_le f
  show encRR 0x9100 x y + ssOfSize sz * 64 + pairBit f * 8 < 65536
  omega

theorem cmp (sz : Size) (e : Ea) (n : Fin 8) : Statement (.cmp sz e n) := by
  refine of_lt ?_
  have := encRegEa_lt 0xB000 n sz e
  show encRegEa 0xB000 n sz e < 65536
  omega

theorem cmpaW (e : Ea) (n : Fin 8) : Statement (.cmpaW e n) := by
  refine of_lt ?_
  have := encNEa_lt 0xB0C0 n e
  show encNEa 0xB0C0 n e < 65536
  omega

theorem cmpaL (e : Ea) (n : Fin 8) : Statement (.cmpaL e n) := by
  refine of_lt ?_
  have := encNEa_lt 0xB1C0 n e
  show encNEa 0xB1C0 n e < 65536
  omega

theorem eor (sz : Size) (n : Fin 8) (e : Ea) : Statement (.eor sz n e) := by
  refine of_lt ?_
  have := encRegEa_lt 0xB100 n sz e
  show encRegEa 0xB100 n sz e < 65536
  omega

theorem cmpm (sz : Size) (x : Fin 8) (y : Fin 8) : Statement (.cmpm sz x y) := by
  refine of_lt ?_
  have := encRR_lt 0xB108 x y
  have := ssOfSize_le sz
  show encRR 0xB108 x y + ssOfSize sz * 64 < 65536
  omega

theorem andEaDn (sz : Size) (e : Ea) (n : Fin 8) : Statement (.andEaDn sz e n) := by
  refine of_lt ?_
  have := encRegEa_lt 0xC000 n sz e
  show encRegEa 0xC000 n sz e < 65536
  omega

theorem andDnEa (sz : Size) (n : Fin 8) (e : Ea) : Statement (.andDnEa sz n e) := by
  refine of_lt ?_
  have := encRegEa_lt 0xC100 n sz e
  show encRegEa 0xC100 n sz e < 65536
  omega

theorem mulu (e : Ea) (n : Fin 8) : Statement (.mulu e n) := by
  refine of_lt ?_
  have := encNEa_lt 0xC0C0 n e
  show encNEa 0xC0C0 n e < 65536
  omega

theorem muls (e : Ea) (n : Fin 8) : Statement (.muls e n) := by
  refine of_lt ?_
  have := encNEa_lt 0xC1C0 n e
  show encNEa 0xC1C0 n e < 65536
  omega

theorem abcd (f : PairForm) (x : Fin 8) (y : Fin 8) : Statement (.abcd f x y) := by
  refine of_lt ?_
  have := encRR_lt 0xC100 x y
  have := pairBit_le f
  show encRR 0xC100 x y + pairBit f * 8 < 65536
  omega

theorem exgDD (x : Fin 8) (y : Fin 8) : Statement (.exgDD x y) := by
  refine of_lt ?_
  have := encRR_lt 0xC140 x y
  show encRR 0xC140 x y < 65536
  omega

theorem exgAA (x : Fin 8) (y : Fin 8) : Statement (.exgAA x y) := by
  refine of_lt ?_
  have := encRR_lt 0xC148 x y
  show encRR 0xC148 x y < 65536
  omega

theorem exgDA (x : Fin 8) (y : Fin 8) : Statement (.exgDA x y) := by
  refine of_lt ?_
  have := encRR_lt 0xC188 x y
  show encRR 0xC188 x y < 65536
  omega

theorem addEaDn (sz : Size) (e : Ea) (n : Fin 8) : Statement (.addEaDn sz e n) := by
  refine of_lt ?_
  have := encRegEa_lt 0xD000 n sz e
  show encRegEa 0xD000 n sz e < 65536
  omega

theorem addDnEa (sz : Size) (n : Fin 8) (e : Ea) : Statement (.addDnEa sz n e) := by
  refine of_lt ?_
  have := encRegEa_lt 0xD100 n sz e
  show encRegEa 0xD100 n sz e < 65536
  omega

theorem addaW (e : Ea) (n : Fin 8) : Statement (.addaW e n) := by
  refine of_lt ?_
  have := encNEa_lt 0xD0C0 n e
  show encNEa 0xD0C0 n e < 65536
  omega

theorem addaL (e : Ea) (n : Fin 8) : Statement (.addaL e n) := by
  refine of_lt ?_
  have := encNEa_lt 0xD1C0 n e
  show encNEa 0xD1C0 n e < 65536
  omega

theorem addx (sz : Size) (f : PairForm) (x : Fin 8) (y : Fin 8) : Statement (.addx sz f x y) := by
  refine of_lt ?_
  have := encRR_lt 0xD100 x y
  have := ssOfSize_le sz
  have := pairBit_le f
  show encRR 0xD100 x y + ssOfSize sz * 64 + pairBit f * 8 < 65536
  omega

theorem asrReg (sz : Size) (c : ShiftCount) (n : Fin 8) : Statement (.asrReg sz c n) := by
  refine of_lt ?_
  have := encShift_lt 0xE000 sz c n
  show encShift 0xE000 sz c n < 65536
  omega

theorem asrMem (e : Ea) : Statement (.asrMem e) := by
  refine of_lt ?_
  have := eaField_lt e
  show 0xE0C0 + eaField e < 65536
  omega

theorem aslReg (sz : Size) (c : ShiftCount) (n : Fin 8) : Statement (.aslReg sz c n) := by
  refine of_lt ?_
  have := encShift_lt 0xE100 sz c n
  show encShift 0xE100 sz c n < 65536
  omega

theorem aslMem (e : Ea) : Statement (.aslMem e) := by
  refine of_lt ?_
  have := eaField_lt e
  show 0xE1C0 + eaField e < 65536
  omega

theorem lsrReg (sz : Size) (c : ShiftCount) (n : Fin 8) : Statement (.lsrReg sz c n) := by
  refine of_lt ?_
  have := encShift_lt 0xE008 sz c n
  show encShift 0xE008 sz c n < 65536
  omega

theorem lsrMem (e : Ea) : Statement (.lsrMem e) := by
  refine of_lt ?_
  have := eaField_lt e
  show 0xE2C0 + eaField e < 65536
  omega

theorem lslReg (sz : Size) (c : ShiftCount) (n : Fin 8) : Statement (.lslReg sz c n) := by
  refine of_lt ?_
  have := encShift_lt 0xE108 sz c n
  show encShift 0xE108 sz c n < 65536
  omega

theorem lslMem (e : Ea) : Statement (.lslMem e) := by
  refine of_lt ?_
  have := eaField_lt e
  show 0xE3C0 + eaField e < 65536
  omega

theorem roxrReg (sz : Size) (c : ShiftCount) (n : Fin 8) : Statement (.roxrReg sz c n) := by
  refine of_lt ?_
  have := encShift_lt 0xE010 sz c n
  show encShift 0xE010 sz c n < 65536
  omega

theorem roxrMem (e : Ea) : Statement (.roxrMem e) := by
  refine of_lt ?_
  have := eaField_lt e
  show 0xE4C0 + eaField e < 65536
  omega

theorem roxlReg (sz : Size) (c : ShiftCount) (n : Fin 8) : Statement (.roxlReg sz c n) := by
  refine of_lt ?_
  have := encShift_lt 0xE110 sz c n
  show encShift 0xE110 sz c n < 65536
  omega

theorem roxlMem (e : Ea) : Statement (.roxlMem e) := by
  refine of_lt ?_
  have := eaField_lt e
  show 0xE5C0 + eaField e < 65536
  omega

theorem rorReg (sz : Size) (c : ShiftCount) (n : Fin 8) : Statement (.rorReg sz c n) := by
  refine of_lt ?_
  have := encShift_lt 0xE018 sz c n
  show encShift 0xE018 sz c n < 65536
  omega

theorem rorMem (e : Ea) : Statement (.rorMem e) := by
  refine of_lt ?_
  have := eaField_lt e
  show 0xE6C0 + eaField e < 65536
  omega

theorem rolReg (sz : Size) (c : ShiftCount) (n : Fin 8) : Statement (.rolReg sz c n) := by
  refine of_lt ?_
  have := encShift_lt 0xE118 sz c n
  show encShift 0xE118 sz c n < 65536
  omega

theorem rolMem (e : Ea) : Statement (.rolMem e) := by
  refine of_lt ?_
  have := eaField_lt e
  show 0xE7C0 + eaField e < 65536
  omega

end Sys2Proof.Laws.Encoding
end

