-- ==== Sys2Proof/Laws/Run.lean ====
section
/-! SUPPORT. How the sequences most meanings are made of run to their end when their operands go through. -/
namespace Sys2Proof.Machine

/-- An operand that is only read, then used. -/
theorem run_readEa {sz : Size} {e : Ea} {s : State} {g : Word → M Unit} (h : operandReadable sz e s = true) :
    run (readEa sz e >>= g) s = run (g (operandValue sz e s)) (afterOperand sz e s) := run_bind_ok (readEa_ok h)

/-- The read half of a read-modify-write (R155). -/
theorem run_resolveRead {sz : Size} {e : Ea} {s : State} {g : Handle → Word → M Unit}
    (h : operandWritable sz e s = true) : run (resolve sz e >>= fun hd => readH sz hd >>= fun d => g hd d) s =
      run (g (eaHandle sz e s) (operandValue sz e s)) (afterOperand sz e s) := by
  rw [run_bind_ok (resolve_writable_ok h), run_bind_ok (readH_operand_ok h)]

/-- The write half of a read-modify-write, then the flags. -/
theorem run_writeFlags {sz : Size} {e : Ea} {s : State} {v : Word} {f : Ccr → Ccr} (h : operandWritable sz e s = true) :
    run (writeH sz (eaHandle sz e s) v >>= fun _ => putFlags f) (afterOperand sz e s) =
      .next ((afterUpdate sz e v s).setCcr (f s.ccr)) := by
  rw [run_bind_ok (writeH_operand_ok h)]
  show Host.Outcome.next ((afterUpdate sz e v s).setCcr (f (afterUpdate sz e v s).ccr)) = _
  rw [afterUpdate_ccr]

/-- A write without a read (D24), then the flags. -/
theorem run_assignFlags {sz : Size} {e : Ea} {s : State} {v : Word} {f : Ccr → Ccr}
    (h : operandWritable sz e s = true) :
    run (writeH sz (eaHandle sz e s) v >>= fun _ => putFlags f) (eaAfter sz e s) =
      .next ((afterAssign sz e v s).setCcr (f s.ccr)) := by
  rw [run_bind_ok (writeH_assign_ok h)]
  show Host.Outcome.next ((afterAssign sz e v s).setCcr (f (afterAssign sz e v s).ccr)) = _
  rw [afterAssign_ccr]

theorem run_getD {sz : Size} {n : Fin 8} {s : State} {g : Word → M Unit} :
    run (getD sz n >>= g) s = run (g (trunc sz (s.dreg n))) s := rfl

theorem run_putFlags (f : Ccr → Ccr) (s : State) : run (putFlags f) s = .next (s.setCcr (f s.ccr)) := rfl

theorem run_drawFree {g : Half → M Unit} {s : State} :
    run (drawFree >>= g) s = run (g (Config.freeValue s.drawn)) (s.setDrawn (s.drawn + 1)) := rfl

theorem run_putD {sz : Size} {n : Fin 8} {v : Word} {g : Unit → M Unit} {s : State} :
    run (putD sz n v >>= g) s = run (g ()) (s.setDLow sz n v) := rfl

theorem run_raise (v : BitVec 8) (s : State) : run (raise v) s = .next (afterRaise v s) := rfl

/-! ### A free value drawn before the write -/

theorem State.signal_setDrawn (s : State) (k : Nat) : (s.setDrawn k).signal = s.signal.setDrawn k := by
  rw [State.signal_eq, State.signal_eq]; rfl

theorem State.deviceEvent_setDrawn (s : State) (ev : DevEvent) (k : Nat) :
    (s.setDrawn k).deviceEvent ev = (s.deviceEvent ev).setDrawn k := by
  unfold State.deviceEvent
  simp only [State.setDrawn_devLog]
  by_cases h : Config.deviceIrq (ev :: s.devLog) = 0
  · simp only [h, if_true]
    rfl
  · simp only [h, if_false]
    exact State.signal_setDrawn ((s.setDevLog _).setIpl _) k

theorem State.afterStore_setDrawn (s : State) (sz : Size) (a v : Word) (k : Nat) :
    (s.setDrawn k).afterStore sz a v = (s.afterStore sz a v).setDrawn k := by
  unfold State.afterStore
  simp only [State.setDrawn_config]
  cases regionAt s.config (busAddr s.config a) with
  | ram => rfl
  | hole => rfl
  | window => exact State.deviceEvent_setDrawn s _ k

theorem handleAfterWrite_setDrawn (sz : Size) (h : Handle) (v : Word) (s : State) (k : Nat) :
    handleAfterWrite sz h v (s.setDrawn k) = (handleAfterWrite sz h v s).setDrawn k := by
  cases h with
  | mem a => exact State.afterStore_setDrawn s sz a v k
  | _ => rfl

/-- As `run_writeFlags`, a free value having been drawn in between. -/
theorem run_writeFlags_drawn {sz : Size} {e : Ea} {s : State} {v : Word} {f : Ccr → Ccr} {k : Nat}
    (h : operandWritable sz e s = true) :
    run (writeH sz (eaHandle sz e s) v >>= fun _ => putFlags f) ((afterOperand sz e s).setDrawn k) =
      .next (((afterUpdate sz e v s).setDrawn k).setCcr (f s.ccr)) := by
  obtain ⟨-, hw⟩ := operandWritable_iff.mp h
  rw [run_bind_ok (writeH_ok (by simpa using hw)), run_putFlags, handleAfterWrite_setDrawn]
  show Host.Outcome.next (State.setCcr _ (f (afterUpdate sz e v s).ccr)) = _
  rw [afterUpdate_ccr]
  rfl

/-! ### MOVEM -/

theorem storeRegs_ok {sz : Size} {l : List (Fin 16)} {a : Word} {s : State}
    (h : ∀ k < l.length, writable s.config sz (transferUp sz a k) = true) :
    storeRegs sz l a s = .ok () (afterStoreRegs sz l a s) := by
  induction l generalizing a s with
  | nil => rfl
  | cons i rest ih =>
    unfold storeRegs
    rw [M.get_bind, M.bind_ok (memWrite_ok (by have := h 0 (by simp); rwa [transferUp_zero] at this)), ih]
    · rfl
    · intro k hk
      rw [transferUp_succ]
      simpa using h (k + 1) (by simpa using hk)

theorem storeRegsDown_ok {sz : Size} {l : List (Fin 16)} {a : Word} {s : State}
    (h : ∀ k < l.length, writable s.config sz (transferDown sz a k) = true) :
    storeRegsDown sz l a s = .ok (a - BitVec.ofNat 32 (sizeBytes sz * l.length)) (afterStoreRegsDown sz l a s) := by
  induction l generalizing a s with
  | nil => simp [storeRegsDown, afterStoreRegsDown]
  | cons i rest ih =>
    unfold storeRegsDown
    simp only
    rw [M.get_bind, M.bind_ok (memWrite_ok (by have := h 0 (by simp); rwa [transferDown_zero] at this)), ih]
    · simp only [afterStoreRegsDown, List.length_cons]
      congr 1
      rw [Nat.mul_add, Nat.mul_one, Nat.add_comm, BitVec.ofNat_add]
      simp only [BitVec.sub_eq_add_neg, BitVec.neg_add, BitVec.add_assoc]
    · intro k hk
      rw [transferDown_succ]
      simpa using h (k + 1) (by simpa using hk)

theorem State.setX_config (s : State) (i : Fin 16) (v : Word) : (s.setX i v).config = s.config := by
  unfold State.setX; split <;> rfl

theorem loadRegs_ok {sz : Size} {l : List (Fin 16)} {a : Word} {s : State}
    (h : ∀ k < l.length, readable s.config sz (transferUp sz a k) = true) :
    loadRegs sz l a s = .ok (a + BitVec.ofNat 32 (sizeBytes sz * l.length)) (afterLoadRegs sz l a s) := by
  induction l generalizing a s with
  | nil => simp [loadRegs, afterLoadRegs]
  | cons i rest ih =>
    unfold loadRegs
    rw [M.bind_ok (memRead_ok (by have := h 0 (by simp); rwa [transferUp_zero] at this)), M.modify_bind, ih]
    · simp only [afterLoadRegs, List.length_cons]
      congr 1
      rw [Nat.mul_add, Nat.mul_one, Nat.add_comm, BitVec.ofNat_add, BitVec.add_assoc]
    · intro k hk
      rw [transferUp_succ]
      simpa [State.setX_config] using h (k + 1) (by simpa using hk)

/-! ### Shifts and bit instructions -/

theorem run_shiftReg (f : Size → ShiftAcc → ShiftAcc) (fl : Size → Nat → ShiftAcc → Ccr → Ccr) (sz : Size)
    (c : ShiftCount) (n : Fin 8) (s : State) : run (shiftReg f fl sz c n) s =
      let a := shiftBy f sz (shiftCount c s) (trunc sz (s.dreg n)) s.ccr.x
      .next ((s.setDLow sz n a.v).setCcr (fl sz (shiftCount c s) a s.ccr)) := rfl

theorem run_shiftMem {f : Size → ShiftAcc → ShiftAcc} {fl : Size → Nat → ShiftAcc → Ccr → Ccr} {e : Ea} {s : State}
    (h : operandWritable .w e s = true) : run (shiftMem f fl e) s =
      let a := shiftBy f .w 1 (operandValue .w e s) s.ccr.x
      .next ((afterUpdate .w e a.v s).setCcr (fl .w 1 a s.ccr)) := by
  unfold shiftMem
  rw [run_resolveRead h, run_get_bind, run_writeFlags h, afterOperand_ccr]

theorem run_bitTest {b : Nat} {e : Ea} {s : State} (h : operandReadable .b e s = true) :
    run (bitTest b e) s = .next (afterBitTest b e s) := by
  have hm : ∀ e : Ea, operandReadable .b e s = true → run (readEa .b e >>= fun d => putFlags (ccrBit d (b % 8))) s =
      .next ((afterOperand .b e s).setCcr (ccrBit (operandValue .b e s) (b % 8) s.ccr)) := by
    intro e he
    rw [run_readEa he, run_putFlags, afterOperand_ccr]
  cases e <;> first | rfl | exact hm _ h

theorem run_bitUpdate {f : Word → Word → Word} {b : Nat} {e : Ea} {s : State} (h : operandWritable .b e s = true) :
    run (bitUpdate f b e) s = .next (afterBitUpdate f b e s) := by
  have hm : ∀ e : Ea, operandWritable .b e s = true → run (resolve .b e >>= fun h => readH .b h >>= fun d =>
      writeH .b h (f d (bitMask (b % 8))) >>= fun _ => putFlags (ccrBit d (b % 8))) s =
      .next ((afterUpdate .b e (f (operandValue .b e s) (1#32 <<< (b % 8))) s).setCcr
        (ccrBit (operandValue .b e s) (b % 8) s.ccr)) := by
    intro e he
    rw [run_resolveRead he, run_writeFlags he]
    rfl
  cases e <;> first | rfl | exact hm _ h

end Sys2Proof.Machine
end

