-- ==== Sys2Proof/Laws/Steps.lean ====
section
/-! SUPPORT. The step taken apart: what a delivery, the opcode fetch and each transition keep, when they go through, and
what a next state of the step came from. -/
namespace Sys2Proof.Machine

variable {R Q : State → State → Prop}

/-! ### Latching the trace flag, fetching the opcode -/

theorem State.latchTrace_eq (s : State) :
    s.latchTrace = if s.t then ((s.setTracePend true).setBudget 0
      (if s.budget = 0 then s.budgetSaved else s.budget)).setAttention true else s.setTracePend false := by
  unfold State.latchTrace
  split
  · rw [State.signal_eq]; rfl
  · rfl

theorem fetchOpcode_apply (s : State) : fetchOpcode s =
    (memFetch s.latchTrace.pc >>= fun w => (modify (fun s => (s.setIr w).setPc (s.pc + 2)) : M Unit)) s.latchTrace := rfl

theorem State.latchTrace_pc (s : State) : s.latchTrace.pc = s.pc := by rw [State.latchTrace_eq]; split <;> rfl
theorem State.latchTrace_config (s : State) : s.latchTrace.config = s.config := by
  rw [State.latchTrace_eq]; split <;> rfl
theorem State.latchTrace_mem (s : State) : s.latchTrace.mem = s.mem := by rw [State.latchTrace_eq]; split <;> rfl
theorem State.latchTrace_tracePend (s : State) : s.latchTrace.tracePend = s.t := by
  rw [State.latchTrace_eq]; split <;> simp_all

theorem State.latchTrace_wordAt (s : State) (a : Word) : s.latchTrace.wordAt a = s.wordAt a := by
  unfold State.wordAt
  simp only [State.latchTrace_config, State.latchTrace_mem]

theorem fetchOpcode_ok {s : State} (h : fetchable s 0 = true) : fetchOpcode s = .ok () (afterFetch s) := by
  rw [fetchOpcode_apply]
  have hf : fetchable s.latchTrace 0 = true := by
    unfold fetchable at h ⊢
    rw [State.latchTrace_pc, State.latchTrace_config]
    exact h
  rw [M.bind_ok (memFetch_ok hf)]
  have hw : s.latchTrace.streamWord 0 = s.streamWord 0 := by
    unfold State.streamWord
    rw [State.latchTrace_pc, State.latchTrace_wordAt]
  rw [hw, M.modify_apply]
  unfold afterFetch
  rw [show s.latchTrace.pc = s.pc from State.latchTrace_pc s]

theorem keeps_fetchOpcode (hS : Stable R Q) (hL : ∀ s, R s s.latchTrace) (hI : ∀ w s, R s (s.setIr w)) :
    Keeps R Q fetchOpcode := by
  refine keeps_bind hS (keeps_modify hL) (fun _ => keeps_get_bind (fun u => keeps_bind hS (keeps_memFetch hS _)
    (fun w => keeps_modify (fun s => hS.trans _ _ _ (hI w s) (hS.pc _ _ (fun h => ?_))))))
  rw [isOdd_add_two]
  exact h

/-- A word that went through the opcode fetch was the next word of the stream. -/
theorem fetchOpcode_shape {s t : State} {a : Unit} (h : fetchOpcode s = .ok a t) : t = afterFetch s := by
  rw [fetchOpcode_apply] at h
  obtain ⟨w, u, h1, h2⟩ := M.of_bind_ok h
  rw [M.modify_apply] at h2
  rcases memFetch_cases s.latchTrace.pc s.latchTrace with h' | ⟨-, h'⟩ | ⟨r, h'⟩ <;> rw [h'] at h1 <;> cases h1
  cases h2
  unfold afterFetch State.streamWord
  rw [State.latchTrace_pc, State.latchTrace_wordAt]
  simp

/-! ### A delivery -/

theorem keeps_deliver (hS : Stable R Q) (hA : ∀ v s, R s (s.setA 7 v)) (hE : ∀ l s, R s (s.enterHandler l))
    (hW : ∀ sz a v s, writable s.config sz a = true → R s (s.afterStore sz a v)) (v : BitVec 8)
    (l : Option (BitVec 3)) : Keeps R Q (deliver v l) := by
  have hp : ∀ sz w, Keeps R Q (push sz w) := fun sz w s => keepsAt_push hS (fun x => hA x s) (fun u _ => hW sz _ w u)
  have hb : Keeps R Q pushBadAccess :=
    keeps_get_bind (fun _ => keeps_bind hS (hp _ _) (fun _ => keeps_get_bind (fun _ => keeps_bind hS (hp _ _)
      (fun _ => keeps_get_bind (fun _ => hp _ _)))))
  have hr : Keeps R Q (memRead .l (vectorSlot v) >>= fun target => loadPc target) :=
    keeps_bind hS (keeps_memRead hS _ _) (fun _ => keeps_loadPc hS _)
  unfold deliver
  refine keeps_get_bind (fun u => keeps_bind hS (keeps_modify (hE l)) (fun _ => keeps_get_bind (fun w =>
    keeps_bind hS (hp _ _) (fun _ => keeps_bind hS (hp _ _) (fun _ => ?_)))))
  split
  · exact keeps_bind hS hb (fun _ => hr)
  · exact hr

/-- A delivery that ends in a next state ended normally, or in a raise and was not that of vector 3. -/
theorem deliverAs_next {v : BitVec 8} {l : Option (BitVec 3)} {s t : State} (h : deliverAs v l s = .next t) :
    deliver v l s = .ok () t ∨ (deliver v l s = .error .raised t ∧ v ≠ 3) := by
  unfold deliverAs at h
  split at h
  · rename_i h'; cases h; exact .inl h'
  · rename_i h'
    split at h
    · cases h
    · rename_i hv; cases h; exact .inr ⟨h', hv⟩
  · cases h
  · cases h

/-! ### The step -/

/-- Where a next state of ExecOne came from. -/
theorem execOne_next {s t : State} (h : execOne s = .next t) :
    fetchOpcode s = .error .raised t ∨ (fetchOpcode s = .ok () (afterFetch s) ∧ execFetched (afterFetch s) = .next t) := by
  unfold execOne at h
  split at h
  · rename_i h'
    have := fetchOpcode_shape h'
    subst this
    exact .inr ⟨h', h⟩
  · rename_i h'; cases h; exact .inl h'
  · cases h
  · cases h

/-- Where a next state of the fetched instruction came from. -/
theorem execFetched_next {s t : State} (h : execFetched s = .next t) :
    (∃ i, decodeOp s.ir = .ok i ∧ exec i s = .next t) ∨
    (∃ e, decodeOp s.ir = .error e ∧ t = afterRaise (illegalVector s.config e) s.rewindPc) := by
  unfold execFetched at h
  split at h
  · rename_i i h'; exact .inl ⟨i, h', h⟩
  · rename_i e h'
    rw [run_raised (raiseIllegal_apply _ s)] at h
    cases h
    exact .inr ⟨e, h', rfl⟩

/-- Everything a step that answers a next state did. -/
theorem step_next {s t : State} (h : stepOnce s = .next t) :
    (enabled s = .deliverException ∧ deliverAs s.pendVec none (s.setPendVec 0) = .next t) ∨
    (enabled s = .deliverTrace ∧ deliverAs 9 none (s.setTracePend false) = .next t) ∨
    (enabled s = .deliverInterrupt ∧
      deliverAs (s.config.autovectorBase + s.ipl.setWidth 8) (some s.ipl) (s.setIpl 0) = .next t) ∨
    (enabled s = .idle ∧ t = s) ∨ (enabled s = .execOne ∧ execOne s = .next t) := by
  unfold stepOnce takeTransition at h
  split at h
  · rename_i he; exact .inl ⟨he, h⟩
  · rename_i he; exact .inr (.inl ⟨he, h⟩)
  · rename_i he; exact .inr (.inr (.inl ⟨he, h⟩))
  · rename_i he; cases h; exact .inr (.inr (.inr (.inl ⟨he, rfl⟩)))
  · cases h
  · rename_i he; exact .inr (.inr (.inr (.inr ⟨he, h⟩)))

/-- A decoded instruction is well-formed only if the decoder says so; here as a hypothesis, so that this lemma does not
depend on the decoder's. A relation every instruction keeps is kept by ExecOne. -/
theorem execOne_keeps {s t : State} (h : execOne s = .next t) (hf : KeepsAt R Q fetchOpcode s)
    (hi : ∀ i u, R s (afterFetch s) → decodeOp (afterFetch s).ir = .ok i → exec i (afterFetch s) = .next u → Q s u)
    (he : ∀ e, R s (afterFetch s) → Q s (afterRaise (illegalVector (afterFetch s).config e) (afterFetch s).rewindPc)) :
    Q s t := by
  rcases execOne_next h with h1 | ⟨h1, h2⟩
  · exact hf.2 _ h1
  · have hR := hf.1 _ _ h1
    rcases execFetched_next h2 with ⟨i, hi1, hi2⟩ | ⟨e, -, rfl⟩
    · exact hi i t hR hi1 hi2
    · exact he e hR

end Sys2Proof.Machine
end

