-- ==== Sys2Proof/Tests/Slice0.lean ====
section
/-! SUPPORT. Tests of the model against the words, examples and vectors of the specification (30_encoding, the example
of each instruction rule, 95_test_vectors), the well-formedness smoke, and the witnesses that the hypotheses of the
statements can be met. -/
namespace Sys2Proof.Tests
open Sys2Proof Sys2Proof.Machine

/-! ### Helpers -/

/-- Words stored one after the other from an address. -/
def place : List Half → Nat → List Host.Cell → List Host.Cell
  | [], _, m => m
  | w :: ws, a, m => place ws (a + 2) (Memory.store m .w a (w.setWidth 32))

/-- The start state of 95_test_vectors section 0, without its vector table: instruction words at 0x1000, data words at
0x2000. -/
def boot (ws data : List Half) : State :=
  (((State.reset.setMem (place ws 0x1000 (place data 0x2000 []))).setPc 0x1000).setSsp 0x8000).setA 7 0x8000

/-- X N Z V C as a number. -/
def flags (t : State) : Nat := (ccrBits t.ccr).toNat

/-- The step answers a next state that satisfies the check. -/
def after (s : State) (check : State → Bool) : Bool :=
  match step s with
  | .next t => check t
  | _ => false

/-- The instruction answers a next state that satisfies the check. -/
def ran (i : Instr) (s : State) (check : State → Bool) : Bool :=
  match exec i s with
  | .next t => check t
  | _ => false

/-- A word decodes to an instruction, and is its encoding. -/
def reads (w : Half) (i : Instr) : Bool := decide (decodeOp w = .ok i) && i.wf && encodeOp i == w

/-! ### Well-formedness: a term that each check refuses, and the bytes no decoder row takes -/

theorem test_wf_refuses_address_register_as_data :
    ((Instr.ori .w (.an 0)).wf || (Instr.btst (.an 1)).wf || (Instr.clr .l (.an 2)).wf || (Instr.moveFromSr (.an 3)).wf ||
      (Instr.chk (.an 4) 0).wf || (Instr.scc .eq (.an 5)).wf || (Instr.orEaDn .w (.an 6) 0).wf ||
      (Instr.divu (.an 7) 0).wf || (Instr.eor .w 0 (.an 0)).wf) = false := by decide

theorem test_wf_refuses_registers_as_memory :
    ((Instr.addDnEa .w 0 (.dn 1)).wf || (Instr.andDnEa .l 0 (.an 1)).wf || (Instr.aslMem (.dn 0)).wf ||
      (Instr.rorMem (.an 0)).wf) = false := by decide

theorem test_wf_refuses_stepping_forms_as_control :
    ((Instr.lea (.post 0) 1).wf || (Instr.pea (.pre 0)).wf || (Instr.jmp (.dn 0)).wf || (Instr.jsr (.an 0)).wf) =
      false := by decide

theorem test_wf_refuses_movem_forms :
    ((Instr.movemToMem .w (.post 0)).wf || (Instr.movemToRegs .l (.pre 0)).wf || (Instr.movemToMem .b (.ind 0)).wf ||
      (Instr.movemToRegs .b (.ind 0)).wf) = false := by decide

theorem test_wf_refuses_byte_address_register :
    ((Instr.move .b (.an 0) (.dn 0)).wf || (Instr.addq .b 1 (.an 0)).wf || (Instr.addEaDn .b (.an 0) 0).wf ||
      (Instr.cmp .b (.an 0) 0).wf) = false := by decide

theorem test_wf_refuses_move_to_address_register : (Instr.move .w (.dn 0) (.an 0)).wf = false := by decide

theorem test_wf_refuses_byte_movea_and_movep :
    ((Instr.movea .b (.dn 0) 0).wf || (Instr.movep .memToReg .b 0 0).wf) = false := by decide

theorem test_wf_refuses_bcc_of_true_and_false : ((Instr.bcc .t 0).wf || (Instr.bcc .f 0).wf) = false := by decide

/-- 95_test_vectors part 4: words that are no instruction (R118, R120). -/
theorem test_decode_unassigned :
    [0x303C#16, 0x103C#16, 0x0C3C#16, 0x00BC#16, 0x41FA#16, 0x4EFA#16, 0x4AFA#16, 0x4EBB#16, 0x4A7D#16, 0x4A7E#16,
      0x4A7F#16, 0x1040#16, 0x06C0#16, 0x7100#16, 0x4848#16, 0x42C0#16, 0x49C0#16, 0x4E74#16, 0x4E7A#16, 0x4E7B#16,
      0xE8D0#16].all (fun w => decide (decodeOp w = .error .unassigned)) = true := by decide

/-- R119, and no opcode word at all. -/
theorem test_decode_lines_a_f_and_truncated :
    decodeOp 0xA123#16 = .error .lineA ∧ decodeOp 0xF000#16 = .error .lineF ∧ decode [0x4E] = .error .truncated := by
  decide

/-! ### A word for every constructor, written out from the formats of R106 to R109 and the rows of R117 -/

theorem test_decode_line0_immediates :
    (reads 0x0058 (.ori .w (.post 0)) && reads 0x003C .oriToCcr && reads 0x007C .oriToSr &&
      reads 0x0200 (.andi .b (.dn 0)) && reads 0x023C .andiToCcr && reads 0x027C .andiToSr &&
      reads 0x0483 (.subi .l (.dn 3)) && reads 0x0680 (.addi .l (.dn 0)) && reads 0x0A50 (.eori .w (.ind 0)) &&
      reads 0x0A3C .eoriToCcr && reads 0x0A7C .eoriToSr && reads 0x0C79 (.cmpi .w .absL)) = true := by decide

theorem test_decode_line0_bits_and_movep :
    (reads 0x0810 (.btst (.ind 0)) && reads 0x0312 (.btstDn 1 (.ind 2)) && reads 0x0850 (.bchg (.ind 0)) &&
      reads 0x055B (.bchgDn 2 (.post 3)) && reads 0x08AC (.bclr (.disp 4)) && reads 0x0380 (.bclrDn 1 (.dn 0)) &&
      reads 0x08D0 (.bset (.ind 0)) && reads 0x03C0 (.bsetDn 1 (.dn 0)) && reads 0x0108 (.movep .memToReg .w 0 0) &&
      reads 0x03CA (.movep .regToMem .l 1 2)) = true := by decide

theorem test_decode_moves :
    (reads 0x10D8 (.move .b (.post 0) (.post 0)) && reads 0x2320 (.move .l (.pre 0) (.pre 1)) &&
      reads 0x31C0 (.move .w (.dn 0) .absW) && reads 0x3030 (.move .w (.index 0) (.dn 0)) &&
      reads 0x23EB (.move .l (.disp 3) .absL) && reads 0x3040 (.movea .w (.dn 0) 0) && reads 0x74FF (.moveq 0xFF 2)) =
      true := by decide

theorem test_decode_line4_operands :
    (reads 0x4000 (.negx .b (.dn 0)) && reads 0x40C0 (.moveFromSr (.dn 0)) && reads 0x4181 (.chk (.dn 1) 0) &&
      reads 0x43F0 (.lea (.index 0) 1) && reads 0x4278 (.clr .w .absW) && reads 0x4440 (.neg .w (.dn 0)) &&
      reads 0x44C0 (.moveToCcr (.dn 0)) && reads 0x4685 (.not .l (.dn 5)) && reads 0x46C0 (.moveToSr (.dn 0)) &&
      reads 0x4800 (.nbcd (.dn 0)) && reads 0x4840 (.swap 0) && reads 0x4850 (.pea (.ind 0)) &&
      reads 0x4880 (.extW 0) && reads 0x48C0 (.extL 0) && reads 0x48E7 (.movemToMem .l (.pre 7)) &&
      reads 0x4C90 (.movemToRegs .w (.ind 0)) && reads 0x4A40 (.tst .w (.dn 0)) && reads 0x4AD0 (.tas (.ind 0))) =
      true := by decide

theorem test_decode_line4_system :
    (reads 0x4AFC .illegal && reads 0x4E4F (.trap 15) && reads 0x4E56 (.link 6) && reads 0x4E5E (.unlk 6) &&
      reads 0x4E61 (.moveToUsp 1) && reads 0x4E69 (.moveFromUsp 1) && reads 0x4E70 .reset && reads 0x4E71 .nop &&
      reads 0x4E72 .stop && reads 0x4E73 .rte && reads 0x4E75 .rts && reads 0x4E76 .trapv && reads 0x4E77 .rtr &&
      reads 0x4EB9 (.jsr .absL) && reads 0x4ED0 (.jmp (.ind 0))) = true := by decide

theorem test_decode_lines_5_and_6 :
    (reads 0x5248 (.addq .w 1 (.an 0)) && reads 0x5140 (.subq .w 0 (.dn 0)) && reads 0x57C0 (.scc .eq (.dn 0)) &&
      reads 0x51C8 (.dbcc .f 0) && reads 0x60FE (.bra 0xFE) && reads 0x6110 (.bsr 0x10) && reads 0x66FA (.bcc .ne 0xFA)) =
      true := by decide

theorem test_decode_lines_8_and_9 :
    (reads 0x8001 (.orEaDn .b (.dn 1) 0) && reads 0x8752 (.orDnEa .w 3 (.ind 2)) && reads 0x80C1 (.divu (.dn 1) 0) &&
      reads 0x81C1 (.divs (.dn 1) 0) && reads 0x8101 (.sbcd .regs 0 1) && reads 0x9041 (.subEaDn .w (.dn 1) 0) &&
      reads 0x9525 (.subDnEa .b 2 (.pre 5)) && reads 0x90C0 (.subaW (.dn 0) 0) && reads 0x91C0 (.subaL (.dn 0) 0) &&
      reads 0x9101 (.subx .b .regs 0 1)) = true := by decide

theorem test_decode_lines_b_and_c :
    (reads 0xB041 (.cmp .w (.dn 1) 0) && reads 0xB0C0 (.cmpaW (.dn 0) 0) && reads 0xB1C0 (.cmpaL (.dn 0) 0) &&
      reads 0xB181 (.eor .l 0 (.dn 1)) && reads 0xB308 (.cmpm .b 1 0) && reads 0xC041 (.andEaDn .w (.dn 1) 0) &&
      reads 0xC390 (.andDnEa .l 1 (.ind 0)) && reads 0xC0C1 (.mulu (.dn 1) 0) && reads 0xC1C1 (.muls (.dn 1) 0) &&
      reads 0xC308 (.abcd .mem 1 0) && reads 0xC342 (.exgDD 1 2) && reads 0xC34A (.exgAA 1 2) &&
      reads 0xC189 (.exgDA 0 1)) = true := by decide

theorem test_decode_line_d :
    (reads 0xD081 (.addEaDn .l (.dn 1) 0) && reads 0xD150 (.addDnEa .w 0 (.ind 0)) && reads 0xD0C0 (.addaW (.dn 0) 0) &&
      reads 0xD1C0 (.addaL (.dn 0) 0) && reads 0xD388 (.addx .l .mem 1 0)) = true := by decide

theorem test_decode_line_e :
    (reads 0xE240 (.asrReg .w (.imm 1) 0) && reads 0xE0D0 (.asrMem (.ind 0)) && reads 0xE3A0 (.aslReg .l (.reg 1) 0) &&
      reads 0xE1D0 (.aslMem (.ind 0)) && reads 0xE008 (.lsrReg .b (.imm 0) 0) && reads 0xE2D0 (.lsrMem (.ind 0)) &&
      reads 0xE368 (.lslReg .w (.reg 1) 0) && reads 0xE3D0 (.lslMem (.ind 0)) && reads 0xE290 (.roxrReg .l (.imm 1) 0) &&
      reads 0xE4D0 (.roxrMem (.ind 0)) && reads 0xE330 (.roxlReg .b (.reg 1) 0) && reads 0xE5D0 (.roxlMem (.ind 0)) &&
      reads 0xE218 (.rorReg .b (.imm 1) 0) && reads 0xE6D0 (.rorMem (.ind 0)) && reads 0xE3B8 (.rolReg .l (.reg 1) 0) &&
      reads 0xE7D0 (.rolMem (.ind 0))) = true := by decide

/-! ### One step: vectors of 95_test_vectors -/

/-- V-MOV-1: `MOVE.B (A7)+,D0` (R144, R151, R211). -/
theorem test_move_byte_through_a7_steps_two :
    after (((boot [0x101F] [0x1234, 0x5678, 0x9ABC, 0xDEF0]).setD 0 0xFFFFFFFF).setA 7 0x2000)
      (fun t => t.dreg 0 == 0xFFFFFF12 && t.areg 7 == 0x2002 && flags t == 0b00000 &&
        t.pc == 0x1002) = true := by decide

/-- V-MOV-15: `MOVE.B (A0)+,(A0)+` (R159). -/
theorem test_move_source_step_before_destination :
    after ((boot [0x10D8] [0x1234, 0x5678, 0x9ABC, 0xDEF0]).setA 0 0x2000)
      (fun t => t.areg 0 == 0x2002 && flags t == 0b00000 && t.pc == 0x1002 &&
        Memory.load t.mem .b 0x2001 == 0x12) = true := by decide

/-- V-MOV-8: `MOVE.W 2(A0,D1.W),D0` (R147, R121). -/
theorem test_move_index_word_sign_extends :
    after (((boot [0x3030, 0x1702] [0x1234, 0x5678, 0x9ABC, 0xDEF0]).setA 0 0x2000).setD 1 0x1FFFE)
      (fun t => t.dreg 0 == 0x1234 && flags t == 0b00000 && t.pc == 0x1004) = true := by decide

/-- V-MOV-10: `MOVE.W $00002002.L,D0` (R149). -/
theorem test_move_absolute_long :
    after (boot [0x3039, 0x0, 0x2002] [0x1234, 0x5678, 0x9ABC, 0xDEF0])
      (fun t => t.dreg 0 == 0x5678 && flags t == 0b00000 && t.pc == 0x1006) = true := by decide

/-- V-MOV-18: `MOVE.W (A0)+,D0` (R144, R15). -/
theorem test_move_odd_address_keeps_step :
    after (((boot [0x3018] [0x1234, 0x5678, 0x9ABC, 0xDEF0]).setA 0 0x2001).setD 0 0x55)
      (fun t => t.pendVec == 3 && t.pc == 0x1002 && t.badAddr == 0x2001 && t.badStatus == 0x15 &&
        t.areg 0 == 0x2003 && t.areg 7 == 0x8000 && flags t == 0b00000) = true := by decide

/-- V-MOV-20: `MOVEA.W D0,A0` (R212, R240). -/
theorem test_movea_word_sign_extends :
    after (((boot [0x3040] []).setD 0 0x1234FFFE).setCcr (ccrOf 0x1F))
      (fun t => t.areg 0 == 0xFFFFFFFE && flags t == 0b11111 && t.pc == 0x1002) = true := by decide

/-- V-MOV-21: `MOVEQ #-1,D2` (R213). -/
theorem test_moveq_sign_extends :
    after (boot [0x74FF] [])
      (fun t => t.dreg 2 == 0xFFFFFFFF && flags t == 0b01000 && t.pc == 0x1002) = true := by decide

/-- V-MOV-22: `MOVEM.W (A0),D0/A1` (R215). -/
theorem test_movem_word_load_sign_extends :
    after ((boot [0x4C90, 0x201] [0x1234, 0x5678, 0x9ABC, 0xDEF0]).setA 0 0x2004)
      (fun t => t.dreg 0 == 0xFFFF9ABC && t.areg 1 == 0xFFFFDEF0 && flags t == 0b00000 &&
        t.pc == 0x1004) = true := by decide

/-- V-MOV-24: `MOVEM.L (A7)+,D0-D1/A0` (R215). -/
theorem test_movem_post_ends_past_last :
    after ((boot [0x4CDF, 0x103] [0x1234, 0x5678, 0x9ABC, 0xDEF0, 0x0, 0x3000]).setA 7 0x2000)
      (fun t => t.dreg 0 == 0x12345678 && t.dreg 1 == 0x9ABCDEF0 && t.areg 0 == 0x3000 && t.areg 7 == 0x200C &&
        flags t == 0b00000 && t.pc == 0x1004) = true := by decide

/-- V-MOV-23: `MOVEM.L D0-D1/A0,-(A7)` (R214, R115). -/
theorem test_movem_pre_order :
    after ((((boot [0x48E7, 0xC080] []).setD 0 0x11111111).setD 1 0x22222222).setA 0 0x33333333)
      (fun t => t.areg 7 == 0x7FF4 && flags t == 0b00000 && t.pc == 0x1004 &&
        Memory.load t.mem .l 0x7FFC == 0x33333333 && Memory.load t.mem .l 0x7FF8 == 0x22222222 &&
        Memory.load t.mem .l 0x7FF4 == 0x11111111) = true := by decide

/-- V-MOV-25: `MOVEM.W D0/A7,-(A7)` (R214). -/
theorem test_movem_stores_initial_a7 :
    after ((boot [0x48A7, 0x8001] []).setD 0 0x1234ABCD)
      (fun t => t.areg 7 == 0x7FFC && flags t == 0b00000 && t.pc == 0x1004 &&
        Memory.load t.mem .w 0x7FFE == 0x8000 && Memory.load t.mem .w 0x7FFC == 0xABCD) = true := by decide

/-- V-MOV-26: `MOVEP.L D0,0(A0)` (R216). -/
theorem test_movep_long_store :
    after (((boot [0x1C8, 0x0] []).setD 0 0x11223344).setA 0 0x2001)
      (fun t => flags t == 0b00000 && t.pc == 0x1004 && Memory.load t.mem .b 0x2001 == 0x11 &&
        Memory.load t.mem .b 0x2003 == 0x22 && Memory.load t.mem .b 0x2005 == 0x33 &&
        Memory.load t.mem .b 0x2007 == 0x44) = true := by decide

/-- V-MOV-27: `MOVEP.W 0(A0),D0` (R216). -/
theorem test_movep_word_load_keeps_upper :
    after (((boot [0x108, 0x0] [0x1234, 0x5678, 0x9ABC, 0xDEF0]).setD 0 0xFFFFFFFF).setA 0 0x2000)
      (fun t => t.dreg 0 == 0xFFFF1256 && flags t == 0b00000 && t.pc == 0x1004) = true := by decide

/-- V-MOV-28: `LEA -4(A0,D0.L),A1` (R217, R156). -/
theorem test_lea_index_long :
    after (((boot [0x43F0, 0x8FC] []).setA 0 0x2000).setD 0 0x10)
      (fun t => t.areg 1 == 0x200C && flags t == 0b00000 && t.pc == 0x1004) = true := by decide

/-- V-MOV-29: `PEA (A0)` (R218). -/
theorem test_pea :
    after ((boot [0x4850] []).setA 0 0x12345678)
      (fun t => t.areg 7 == 0x7FFC && flags t == 0b00000 && t.pc == 0x1002 &&
        Memory.load t.mem .l 0x7FFC == 0x12345678) = true := by decide

/-- V-MOV-30: `LINK A6,#-8` (R221). -/
theorem test_link :
    after ((boot [0x4E56, 0xFFF8] []).setA 6 0xCAFEBABE)
      (fun t => t.areg 6 == 0x7FFC && t.areg 7 == 0x7FF4 && flags t == 0b00000 && t.pc == 0x1004 &&
        Memory.load t.mem .l 0x7FFC == 0xCAFEBABE) = true := by decide

/-- V-MOV-32: `LINK A7,#0` (R221). -/
theorem test_link_a7 :
    after (boot [0x4E57, 0x0] [])
      (fun t => t.areg 7 == 0x7FFC && flags t == 0b00000 && t.pc == 0x1004 &&
        Memory.load t.mem .l 0x7FFC == 0x7FFC) = true := by decide

/-- V-MOV-31: `UNLK A6` (R222). -/
theorem test_unlk :
    after (((boot [0x4E5E] [0x1234, 0x5678, 0x9ABC, 0xDEF0]).setA 6 0x2000).setA 7 0x100)
      (fun t => t.areg 6 == 0x12345678 && t.areg 7 == 0x2004 && flags t == 0b00000 &&
        t.pc == 0x1002) = true := by decide

/-- V-MOV-33: `EXG D0,A1` (R219). -/
theorem test_exg_data_address :
    after (((boot [0xC189] []).setD 0 0x1).setA 1 0x2)
      (fun t => t.dreg 0 == 0x2 && t.areg 1 == 0x1 && flags t == 0b00000 && t.pc == 0x1002) = true := by decide

/-- V-MOV-34: `SWAP D0` (R220). -/
theorem test_swap :
    after ((boot [0x4840] []).setD 0 0x8000)
      (fun t => t.dreg 0 == 0x80000000 && flags t == 0b01000 && t.pc == 0x1002) = true := by decide

/-- V-ARI-2: `ADD.B D1,D0` (R244). -/
theorem test_add_byte_carry_and_overflow :
    after (((boot [0xD001] []).setD 0 0x80).setD 1 0x80)
      (fun t => t.dreg 0 == 0x0 && flags t == 0b10111 && t.pc == 0x1002) = true := by decide

/-- V-ARI-5: `ADD.W D0,(A0)` (R244, R155). -/
theorem test_add_to_memory :
    after (((boot [0xD150] [0x1234, 0x5678, 0x9ABC, 0xDEF0]).setD 0 0x1).setA 0 0x2000)
      (fun t => flags t == 0b00000 && t.pc == 0x1002 && Memory.load t.mem .w 0x2000 == 0x1235) = true := by decide

/-- V-ARI-6: `ADDA.W D0,A0` (R245, R240). -/
theorem test_adda_word_sign_extends :
    after ((((boot [0xD0C0] []).setD 0 0x8000).setA 0 0x10000).setCcr (ccrOf 0x1F))
      (fun t => t.areg 0 == 0x8000 && flags t == 0b11111 && t.pc == 0x1002) = true := by decide

/-- V-ARI-7: `ADDI.L #1,D0` (R246, R111). -/
theorem test_addi_long_overflow :
    after ((boot [0x680, 0x0, 0x1] []).setD 0 0x7FFFFFFF)
      (fun t => t.dreg 0 == 0x80000000 && flags t == 0b01010 && t.pc == 0x1006) = true := by decide

/-- V-ARI-8: `ADDQ.B #8,D0` (R247, R112). -/
theorem test_addq_zero_means_eight :
    after ((boot [0x5000] []).setD 0 0xF8)
      (fun t => t.dreg 0 == 0x0 && flags t == 0b10101 && t.pc == 0x1002) = true := by decide

/-- V-ARI-9: `ADDQ.W #1,A0` (R247, R240). -/
theorem test_addq_to_address_register :
    after ((boot [0x5248] []).setA 0 0xFFFF)
      (fun t => t.areg 0 == 0x10000 && flags t == 0b00000 && t.pc == 0x1002) = true := by decide

/-- V-ARI-11: `ADDX.B D1,D0` (R248). -/
theorem test_addx_sticky_z :
    after ((((boot [0xD101] []).setD 0 0x0).setD 1 0x0).setCcr (ccrOf 0x0))
      (fun t => flags t == 0b00000 && t.pc == 0x1002) = true := by decide

/-- V-ARI-12: `ADDX.L -(A0),-(A1)` (R248). -/
theorem test_addx_memory :
    after ((((boot [0xD388] [0x1234, 0x5678, 0x9ABC, 0xDEF0]).setA 0 0x2004).setA 1 0x2008).setCcr (ccrOf 0x14))
      (fun t => t.areg 0 == 0x2000 && t.areg 1 == 0x2004 && flags t == 0b01000 && t.pc == 0x1002 &&
        Memory.load t.mem .l 0x2004 == 0xACF13569) = true := by decide

/-- V-ARI-15: `SUB.L D1,D0` (R249). -/
theorem test_sub_long_overflow :
    after (((boot [0x9081] []).setD 0 0x7FFFFFFF).setD 1 0xFFFFFFFF)
      (fun t => t.dreg 0 == 0x80000000 && flags t == 0b11011 && t.pc == 0x1002) = true := by decide

/-- V-ARI-16: `SUBA.L D0,A0` (R250). -/
theorem test_suba_long :
    after (((boot [0x91C0] []).setD 0 0x1).setA 0 0x0)
      (fun t => t.areg 0 == 0xFFFFFFFF && flags t == 0b00000 && t.pc == 0x1002) = true := by decide

/-- V-ARI-17: `SUBQ.W #8,D0` (R252). -/
theorem test_subq_borrow :
    after ((boot [0x5140] []).setD 0 0x7)
      (fun t => t.dreg 0 == 0xFFFF && flags t == 0b11001 && t.pc == 0x1002) = true := by decide

/-- V-ARI-18: `SUBX.B D1,D0` (R253). -/
theorem test_subx_borrow :
    after ((((boot [0x9101] []).setD 0 0x0).setD 1 0x0).setCcr (ccrOf 0x14))
      (fun t => t.dreg 0 == 0xFF && flags t == 0b11001 && t.pc == 0x1002) = true := by decide

/-- V-ARI-19: `NEG.B D0` (R254). -/
theorem test_neg_most_negative :
    after ((boot [0x4400] []).setD 0 0x80)
      (fun t => flags t == 0b11011 && t.pc == 0x1002) = true := by decide

/-- V-ARI-22: `NEGX.B D0` (R255). -/
theorem test_negx_sticky_z :
    after (((boot [0x4000] []).setD 0 0xFF).setCcr (ccrOf 0x14))
      (fun t => t.dreg 0 == 0x0 && flags t == 0b10101 && t.pc == 0x1002) = true := by decide

/-- V-ARI-23: `EXT.W D0` (R256). -/
theorem test_ext_word :
    after ((boot [0x4880] []).setD 0 0x12340080)
      (fun t => t.dreg 0 == 0x1234FF80 && flags t == 0b01000 && t.pc == 0x1002) = true := by decide

/-- V-ARI-24: `EXT.L D0` (R256). -/
theorem test_ext_long :
    after ((boot [0x48C0] []).setD 0 0x12348000)
      (fun t => t.dreg 0 == 0xFFFF8000 && flags t == 0b01000 && t.pc == 0x1002) = true := by decide

/-- V-ARI-25: `CLR.L D0` (R257). -/
theorem test_clr_keeps_x :
    after (((boot [0x4280] []).setD 0 0xFFFFFFFF).setCcr (ccrOf 0x1F))
      (fun t => t.dreg 0 == 0x0 && flags t == 0b10100 && t.pc == 0x1002) = true := by decide

/-- V-MOV-9: `CLR.W $8000.W` (R148, R62, R257). -/
theorem test_clr_in_the_hole :
    after ((boot [0x4278, 0x8000] []).setCcr (ccrOf 0x10))
      (fun t => flags t == 0b10100 && t.pc == 0x1004) = true := by decide

/-- V-ARI-27: `CMP.B D1,D0` (R258). -/
theorem test_cmp_keeps_x :
    after ((((boot [0xB001] []).setD 0 0x80).setD 1 0x7F).setCcr (ccrOf 0x10))
      (fun t => flags t == 0b10010 && t.pc == 0x1002) = true := by decide

/-- V-ARI-29: `CMPI.L #1,D0` (R260). -/
theorem test_cmpi_long_overflow :
    after ((boot [0xC80, 0x0, 0x1] []).setD 0 0x80000000)
      (fun t => flags t == 0b00010 && t.pc == 0x1006) = true := by decide

/-- V-ARI-30: `CMPA.W D0,A0` (R259). -/
theorem test_cmpa_word_sign_extends :
    after (((boot [0xB0C0] []).setD 0 0xFFFF).setA 0 0xFFFFFFFF)
      (fun t => flags t == 0b00100 && t.pc == 0x1002) = true := by decide

/-- V-ARI-32: `CMPM.B (A7)+,(A7)+` (R261, R151). -/
theorem test_cmpm_through_a7 :
    after ((boot [0xBF0F] [0x1234, 0x5678, 0x9ABC, 0xDEF0]).setA 7 0x2000)
      (fun t => t.areg 7 == 0x2004 && flags t == 0b00000 && t.pc == 0x1002) = true := by decide

/-- V-ARI-33: `TST.W D0` (R262). -/
theorem test_tst_keeps_x :
    after (((boot [0x4A40] []).setD 0 0x8000).setCcr (ccrOf 0x1F))
      (fun t => flags t == 0b11000 && t.pc == 0x1002) = true := by decide

/-- V-ARI-34: `MULU D1,D0` (R263). -/
theorem test_mulu_low_words :
    after (((boot [0xC0C1] []).setD 0 0x1234FFFF).setD 1 0xFFFF)
      (fun t => t.dreg 0 == 0xFFFE0001 && flags t == 0b01000 && t.pc == 0x1002) = true := by decide

/-- V-ARI-35: `MULS D1,D0` (R264). -/
theorem test_muls_negative :
    after (((boot [0xC1C1] []).setD 0 0x8000).setD 1 0x1)
      (fun t => t.dreg 0 == 0xFFFF8000 && flags t == 0b01000 && t.pc == 0x1002) = true := by decide

/-- V-ARI-39: `DIVU D1,D0` (R265). -/
theorem test_divu_largest_quotient :
    after (((boot [0x80C1] []).setD 0 0xFFFEFFFF).setD 1 0xFFFF)
      (fun t => flags t == 0b01000 && t.pc == 0x1002) = true := by decide

/-- V-ARI-40: `DIVU D1,D0` (R265, R243). -/
theorem test_divu_overflow :
    after ((((boot [0x80C1] []).setD 0 0xFFFFFFFF).setD 1 0xFFFF).setCcr (ccrOf 0x11))
      (fun t => t.ccr.x == true && t.ccr.v == true && t.ccr.c == false && t.pc == 0x1002) = true := by decide

/-- V-ARI-42: `DIVS D1,D0` (R266). -/
theorem test_divs_negative_remainder :
    after (((boot [0x81C1] []).setD 0 0xFFFFFFF9).setD 1 0xFFFE)
      (fun t => t.dreg 0 == 0xFFFF0003 && flags t == 0b00000 && t.pc == 0x1002) = true := by decide

/-- V-ARI-45: `DIVS D1,D0` (R266, R243). -/
theorem test_divs_overflow :
    after (((boot [0x81C1] []).setD 0 0x8000).setD 1 0x1)
      (fun t => t.ccr.x == false && t.ccr.v == true && t.ccr.c == false && t.pc == 0x1002) = true := by decide

/-- V-LOG-1: `AND.W D1,D0` (R291, R290). -/
theorem test_and_word :
    after ((((boot [0xC041] []).setD 0 0xFFFF8001).setD 1 0x8000).setCcr (ccrOf 0x13))
      (fun t => t.dreg 0 == 0xFFFF8000 && flags t == 0b11000 && t.pc == 0x1002) = true := by decide

/-- V-LOG-2: `OR.B D1,D0` (R294). -/
theorem test_or_zero :
    after ((((boot [0x8001] []).setD 0 0x0).setD 1 0x0).setCcr (ccrOf 0x1B))
      (fun t => flags t == 0b10100 && t.pc == 0x1002) = true := by decide

/-- V-LOG-3: `ANDI.B #$0F,D0` (R292, R111). -/
theorem test_andi_ignores_high_byte :
    after ((boot [0x200, 0xFF0F] []).setD 0 0x123456F8)
      (fun t => t.dreg 0 == 0x12345608 && flags t == 0b00000 && t.pc == 0x1004) = true := by decide

/-- V-LOG-4: `ORI #$10,CCR` (R296). -/
theorem test_ori_to_ccr :
    after ((boot [0x3C, 0x10] []).setCcr (ccrOf 0xF))
      (fun t => flags t == 0b11111 && t.pc == 0x1004) = true := by decide

/-- V-LOG-5: `ANDI #$EF,CCR` (R293). -/
theorem test_andi_to_ccr :
    after ((boot [0x23C, 0xFFEF] []).setCcr (ccrOf 0x1F))
      (fun t => flags t == 0b01111 && t.pc == 0x1004) = true := by decide

/-- V-LOG-6: `EORI #$FF,CCR` (R299, R32). -/
theorem test_eori_to_ccr_discards :
    after ((boot [0xA3C, 0xFF] []).setCcr (ccrOf 0x15))
      (fun t => flags t == 0b01010 && t.pc == 0x1004) = true := by decide

/-- V-LOG-7: `EORI.W #$FFFF,(A0)` (R298). -/
theorem test_eori_memory :
    after ((boot [0xA50, 0xFFFF] [0x1234, 0x5678, 0x9ABC, 0xDEF0]).setA 0 0x2000)
      (fun t => flags t == 0b01000 && t.pc == 0x1004 && Memory.load t.mem .w 0x2000 == 0xEDCB) = true := by decide

/-- V-LOG-8: `EOR.L D0,D1` (R297). -/
theorem test_eor_long :
    after (((boot [0xB181] []).setD 0 0xFFFFFFFF).setD 1 0xFFFFFFFF)
      (fun t => t.dreg 1 == 0x0 && flags t == 0b00100 && t.pc == 0x1002) = true := by decide

/-- V-LOG-9: `NOT.W D0` (R300). -/
theorem test_not_word :
    after ((boot [0x4640] []).setD 0 0x1234FFFF)
      (fun t => t.dreg 0 == 0x12340000 && flags t == 0b00100 && t.pc == 0x1002) = true := by decide

/-- V-SHF-1: `ASL.B #2,D0` (R311). -/
theorem test_asl_overflow_during :
    after ((boot [0xE500] []).setD 0 0x60)
      (fun t => t.dreg 0 == 0x80 && flags t == 0b11011 && t.pc == 0x1002) = true := by decide

/-- V-SHF-5: `ASL (A0)` (R311). -/
theorem test_asl_memory :
    after ((boot [0xE1D0] [0xC000]).setA 0 0x2000)
      (fun t => flags t == 0b11001 && t.pc == 0x1002 && Memory.load t.mem .w 0x2000 == 0x8000) = true := by decide

/-- V-SHF-7: `ASR.B D1,D0` (R312). -/
theorem test_asr_count_above_width :
    after (((boot [0xE220] []).setD 0 0x80).setD 1 0x9)
      (fun t => t.dreg 0 == 0xFF && flags t == 0b11001 && t.pc == 0x1002) = true := by decide

/-- V-SHF-8: `LSL.W D1,D0` (R313, R310). -/
theorem test_lsl_count_zero :
    after ((((boot [0xE368] []).setD 0 0x8001).setD 1 0x40).setCcr (ccrOf 0x13))
      (fun t => flags t == 0b11000 && t.pc == 0x1002) = true := by decide

/-- V-SHF-10: `LSR.B #8,D0` (R314, R112). -/
theorem test_lsr_count_field_zero :
    after ((boot [0xE008] []).setD 0 0xFF80)
      (fun t => t.dreg 0 == 0xFF00 && flags t == 0b10101 && t.pc == 0x1002) = true := by decide

/-- V-SHF-12: `LSR (A0)` (R314). -/
theorem test_lsr_memory :
    after ((boot [0xE2D0] [0x1]).setA 0 0x2000)
      (fun t => flags t == 0b10101 && t.pc == 0x1002 && Memory.load t.mem .w 0x2000 == 0x0) = true := by decide

/-- V-SHF-13: `ROL.L D1,D0` (R315). -/
theorem test_rol_long :
    after ((((boot [0xE3B8] []).setD 0 0x80000001).setD 1 0x4).setCcr (ccrOf 0x10))
      (fun t => t.dreg 0 == 0x18 && flags t == 0b10000 && t.pc == 0x1002) = true := by decide

/-- V-SHF-14: `ROL.W D1,D0` (R315). -/
theorem test_rol_count_zero :
    after ((((boot [0xE378] []).setD 0 0x8001).setD 1 0x0).setCcr (ccrOf 0x11))
      (fun t => flags t == 0b11000 && t.pc == 0x1002) = true := by decide

/-- V-SHF-16: `ROR.B #1,D0` (R316). -/
theorem test_ror_byte :
    after ((boot [0xE218] []).setD 0 0x1)
      (fun t => t.dreg 0 == 0x80 && flags t == 0b01001 && t.pc == 0x1002) = true := by decide

/-- V-SHF-17: `ROXL.W #1,D0` (R317). -/
theorem test_roxl_out_to_x :
    after ((boot [0xE350] []).setD 0 0x8000)
      (fun t => t.dreg 0 == 0x0 && flags t == 0b10101 && t.pc == 0x1002) = true := by decide

/-- V-SHF-21: `ROXL.B D1,D0` (R317). -/
theorem test_roxl_by_nine_is_identity :
    after ((((boot [0xE330] []).setD 0 0x81).setD 1 0x9).setCcr (ccrOf 0x10))
      (fun t => flags t == 0b11001 && t.pc == 0x1002) = true := by decide

/-- V-SHF-19: `ROXR.L #1,D0` (R318). -/
theorem test_roxr_x_in :
    after (((boot [0xE290] []).setD 0 0x1).setCcr (ccrOf 0x10))
      (fun t => t.dreg 0 == 0x80000000 && flags t == 0b11001 && t.pc == 0x1002) = true := by decide

/-- V-BIT-1: `BTST #35,D0` (R331, R330). -/
theorem test_btst_static_modulo :
    after (((boot [0x800, 0x23] []).setD 0 0x8).setCcr (ccrOf 0x1F))
      (fun t => flags t == 0b11011 && t.pc == 0x1004) = true := by decide

/-- V-BIT-2: `BTST #11,(A0)` (R331). -/
theorem test_btst_memory_modulo :
    after ((boot [0x810, 0xB] [0xF7FF]).setA 0 0x2000)
      (fun t => flags t == 0b00100 && t.pc == 0x1004) = true := by decide

/-- V-BIT-3: `BSET D1,D0` (R334). -/
theorem test_bset_dynamic_modulo :
    after (((boot [0x3C0] []).setD 0 0x0).setD 1 0xFFFFFFFF)
      (fun t => t.dreg 0 == 0x80000000 && flags t == 0b00100 && t.pc == 0x1002) = true := by decide

/-- V-BIT-6: `BSET #7,(A0)` (R334, R116). -/
theorem test_bset_static_odd_byte :
    after ((boot [0x8D0, 0xFF07] []).setA 0 0x2001)
      (fun t => flags t == 0b00100 && t.pc == 0x1004 && Memory.load t.mem .b 0x2001 == 0x80) = true := by decide

/-- V-BIT-4: `BCLR D1,D0` (R333). -/
theorem test_bclr_dynamic_modulo :
    after (((boot [0x380] []).setD 0 0xFFFFFFFF).setD 1 0x20)
      (fun t => t.dreg 0 == 0xFFFFFFFE && flags t == 0b00000 && t.pc == 0x1002) = true := by decide

/-- V-BIT-5: `BCHG #0,(A0)` (R332). -/
theorem test_bchg_memory :
    after ((boot [0x850, 0x0] [0x100]).setA 0 0x2000)
      (fun t => flags t == 0b00000 && t.pc == 0x1004 && Memory.load t.mem .b 0x2000 == 0x0) = true := by decide

/-- V-BIT-7: `TAS D0` (R335). -/
theorem test_tas_flags_from_old :
    after (((boot [0x4AC0] []).setD 0 0x0).setCcr (ccrOf 0x13))
      (fun t => t.dreg 0 == 0x80 && flags t == 0b10100 && t.pc == 0x1002) = true := by decide

/-- V-BIT-9: `SEQ D0` (R336). -/
theorem test_scc_true :
    after (((boot [0x57C0] []).setD 0 0x12345678).setCcr (ccrOf 0x4))
      (fun t => t.dreg 0 == 0x123456FF && flags t == 0b00100 && t.pc == 0x1002) = true := by decide

/-- V-BIT-10: `SNE (A0)` (R336). -/
theorem test_scc_false_memory :
    after (((boot [0x56D0] [0xAAAA]).setA 0 0x2000).setCcr (ccrOf 0x4))
      (fun t => flags t == 0b00100 && t.pc == 0x1002 && Memory.load t.mem .b 0x2000 == 0x0) = true := by decide

/-- V-BIT-13: `ABCD D1,D0` (R338). -/
theorem test_abcd_carry :
    after ((((boot [0xC101] []).setD 0 0x99).setD 1 0x99).setCcr (ccrOf 0x14))
      (fun t => t.ccr.x == true && t.ccr.z == false && t.ccr.c == true && t.pc == 0x1002) = true := by decide

/-- V-BIT-15: `ABCD -(A0),-(A1)` (R338). -/
theorem test_abcd_memory :
    after ((((boot [0xC308] [0x1900, 0x2800]).setA 0 0x2001).setA 1 0x2003).setCcr (ccrOf 0x4))
      (fun t => t.areg 0 == 0x2000 && t.areg 1 == 0x2002 && t.ccr.x == false && t.ccr.z == false &&
        t.ccr.c == false && t.pc == 0x1002 && Memory.load t.mem .b 0x2002 == 0x47) = true := by decide

/-- V-BIT-16: `SBCD D1,D0` (R339). -/
theorem test_sbcd_borrow :
    after ((((boot [0x8101] []).setD 0 0x0).setD 1 0x1).setCcr (ccrOf 0x4))
      (fun t => t.dreg 0 == 0x99 && t.ccr.x == true && t.ccr.z == false && t.ccr.c == true &&
        t.pc == 0x1002) = true := by decide

/-- V-BIT-20: `NBCD D0` (R340). -/
theorem test_nbcd :
    after (((boot [0x4800] []).setD 0 0x25).setCcr (ccrOf 0x4))
      (fun t => t.dreg 0 == 0x75 && t.ccr.x == true && t.ccr.z == false && t.ccr.c == true &&
        t.pc == 0x1002) = true := by decide

/-- V-CTL-3: `BEQ.W *+$102` (R351, R350). -/
theorem test_bcc_word_base :
    after ((boot [0x6700, 0x100] []).setCcr (ccrOf 0x4))
      (fun t => flags t == 0b00100 && t.pc == 0x1102) = true := by decide

/-- V-CTL-4: `BEQ.W *+$102` (R351). -/
theorem test_bcc_not_taken_fetches :
    after (boot [0x6700, 0x100] [])
      (fun t => flags t == 0b00000 && t.pc == 0x1004) = true := by decide

/-- V-CTL-1: `BRA.S *+1` (R352, R350, R27, R403). -/
theorem test_bra_odd_target :
    after (boot [0x60FF] [])
      (fun t => t.pendVec == 3 && t.pc == 0x1002 && t.badAddr == 0x1001 && t.badStatus == 0x16 &&
        t.areg 7 == 0x8000 && flags t == 0b00000) = true := by decide

/-- V-CTL-6: `BSR.S *+$12` (R353). -/
theorem test_bsr_short :
    after (boot [0x6110] [])
      (fun t => t.areg 7 == 0x7FFC && flags t == 0b00000 && t.pc == 0x1012 &&
        Memory.load t.mem .l 0x7FFC == 0x1002) = true := by decide

/-- V-CTL-7: `BSR.S *+1` (R353). -/
theorem test_bsr_odd_target_pushes_first :
    after (boot [0x61FF] [])
      (fun t => t.pendVec == 3 && t.pc == 0x1002 && t.badAddr == 0x1001 && t.badStatus == 0x16 &&
        t.areg 7 == 0x7FFC && flags t == 0b00000 && Memory.load t.mem .l 0x7FFC == 0x1002) = true := by decide

/-- V-CTL-8: `DBRA D0,*-2` (R354). -/
theorem test_dbcc_counter_expires :
    after ((boot [0x51C8, 0xFFFC] []).setD 0 0x12340000)
      (fun t => t.dreg 0 == 0x1234FFFF && flags t == 0b00000 && t.pc == 0x1004) = true := by decide

/-- V-CTL-9: `DBRA D0,*-2` (R354). -/
theorem test_dbcc_taken :
    after ((boot [0x51C8, 0xFFFC] []).setD 0 0x12340001)
      (fun t => t.dreg 0 == 0x12340000 && flags t == 0b00000 && t.pc == 0xFFE) = true := by decide

/-- V-CTL-12: `JMP (A0)` (R355). -/
theorem test_jmp :
    after ((boot [0x4ED0] []).setA 0 0x3000)
      (fun t => flags t == 0b00000 && t.pc == 0x3000) = true := by decide

/-- V-CTL-15: `JSR (A0)` (R356). -/
theorem test_jsr_odd_target_pushes_first :
    after ((boot [0x4E90] []).setA 0 0x3001)
      (fun t => t.pendVec == 3 && t.pc == 0x1002 && t.badAddr == 0x3001 && t.badStatus == 0x16 &&
        t.areg 7 == 0x7FFC && flags t == 0b00000 && Memory.load t.mem .l 0x7FFC == 0x1002) = true := by decide

/-- V-CTL-16: `RTS` (R357). -/
theorem test_rts :
    after ((boot [0x4E75] [0x0, 0x3000]).setA 7 0x2000)
      (fun t => t.areg 7 == 0x2004 && flags t == 0b00000 && t.pc == 0x3000) = true := by decide

/-- V-CTL-18: `RTR` (R358). -/
theorem test_rtr_low_five_bits :
    after ((boot [0x4E77] [0xFFF5, 0x0, 0x3000]).setA 7 0x2000)
      (fun t => t.areg 7 == 0x2006 && flags t == 0b10101 && t.pc == 0x3000) = true := by decide

/-- V-CTL-19: `NOP` (R362). -/
theorem test_nop :
    after ((boot [0x4E71] []).setCcr (ccrOf 0x1F))
      (fun t => flags t == 0b11111 && t.pc == 0x1002) = true := by decide

/-- V-SYS-1: `MOVE SR,D0` (R370). -/
theorem test_move_from_sr_in_user_mode :
    after ((((boot [0x40C0] []).setD 0 0xFFFFFFFF).setUsp 0x6000).putSr 0x1F)
      (fun t => t.dreg 0 == 0xFFFF001F && flags t == 0b11111 && t.pc == 0x1002) = true := by decide

/-- V-SYS-2: `MOVE D0,CCR` (R371). -/
theorem test_move_to_ccr :
    after ((boot [0x44C0] []).setD 0 0xFFFF)
      (fun t => flags t == 0b11111 && t.pc == 0x1002) = true := by decide

/-- V-SYS-3: `MOVE D0,SR` (R372, R31). -/
theorem test_move_to_sr_discards :
    after ((boot [0x46C0] []).setD 0 0xFFFF)
      (fun t => flags t == 0b11111 && t.getSr == 0xA71F && t.pc == 0x1002) = true := by decide

/-- V-SYS-4: `MOVE D0,SR` (R372, R31). -/
theorem test_move_to_sr_swaps_stacks :
    after (((boot [0x46C0] []).setD 0 0x0).setUsp 0x6000)
      (fun t => t.areg 7 == 0x6000 && flags t == 0b00000 && t.getSr == 0x0 && t.pc == 0x1002) = true := by decide

/-- V-SYS-5: `ANDI #$DFFF,SR` (R373). -/
theorem test_andi_to_sr :
    after ((boot [0x27C, 0xDFFF] []).setUsp 0x6000)
      (fun t => t.areg 7 == 0x6000 && flags t == 0b00000 && t.getSr == 0x700 && t.pc == 0x1004) = true := by decide

/-- V-SYS-7: `ORI #$0700,SR` (R374, R376, R408). -/
theorem test_ori_to_sr_in_user_mode :
    after (((boot [0x7C, 0x700] []).setUsp 0x6000).putSr 0x0)
      (fun t => t.pendVec == 8 && t.pc == 0x1000 && flags t == 0b00000) = true := by decide

/-- V-SYS-8: `EORI #$2000,SR` (R375). -/
theorem test_eori_to_sr :
    after ((boot [0xA7C, 0x2000] []).setUsp 0x6000)
      (fun t => t.areg 7 == 0x6000 && flags t == 0b00000 && t.getSr == 0x700 && t.pc == 0x1004) = true := by decide

/-- V-SYS-9: `MOVE USP,A0` (R377). -/
theorem test_move_from_usp :
    after ((boot [0x4E68] []).setUsp 0x6000)
      (fun t => t.areg 0 == 0x6000 && flags t == 0b00000 && t.pc == 0x1002) = true := by decide

/-- V-SYS-10: `MOVE A0,USP` (R378). -/
theorem test_move_to_usp :
    after ((boot [0x4E60] []).setA 0 0x6000)
      (fun t => t.usp == 0x6000 && flags t == 0b00000 && t.pc == 0x1002) = true := by decide

/-- V-SYS-12: `RESET` (R379). -/
theorem test_reset :
    after (boot [0x4E70] [])
      (fun t => flags t == 0b00000 && t.pc == 0x1002) = true := by decide

/-- V-SYS-14: `STOP #$2000` (R380). -/
theorem test_stop :
    after (boot [0x4E72, 0x2000] [])
      (fun t => flags t == 0b00000 && t.getSr == 0x2000 && t.pc == 0x1004 && t.halted == true) = true := by decide

/-- V-SYS-16: `RTE` (R381). -/
theorem test_rte_to_user_mode :
    after (((boot [0x4E73] [0x1F, 0x0, 0x3000]).setA 7 0x2000).setUsp 0x6000)
      (fun t => t.areg 7 == 0x6000 && flags t == 0b11111 && t.getSr == 0x1F && t.pc == 0x3000) = true := by decide

/-- V-SYS-17: `RTE` (R381, R403). -/
theorem test_rte_odd_target :
    after (((boot [0x4E73] [0x0, 0x0, 0x3001]).setA 7 0x2000).setUsp 0x6000)
      (fun t => t.pendVec == 3 && t.pc == 0x1002 && t.badAddr == 0x3001 && t.badStatus == 0x12 &&
        t.areg 7 == 0x6000 && flags t == 0b00000) = true := by decide

/-- V-SYS-18: `TRAP #15` (R382, R414). -/
theorem test_trap :
    after (boot [0x4E4F] [])
      (fun t => t.pendVec == 47 && t.pc == 0x1002 && flags t == 0b00000) = true := by decide

/-- V-SYS-19: `TRAPV` (R383). -/
theorem test_trapv_without_overflow :
    after (boot [0x4E76] [])
      (fun t => flags t == 0b00000 && t.pc == 0x1002) = true := by decide

/-- V-SYS-20: `TRAPV` (R383, R407). -/
theorem test_trapv_with_overflow :
    after ((boot [0x4E76] []).setCcr (ccrOf 0x2))
      (fun t => t.pendVec == 7 && t.pc == 0x1002 && flags t == 0b00010) = true := by decide

/-- V-SYS-21: `CHK D1,D0` (R384, R406). -/
theorem test_chk_below_zero :
    after (((boot [0x4181] []).setD 0 0xFFFF).setD 1 0x10)
      (fun t => t.pendVec == 6 && t.pc == 0x1002 && t.ccr.x == false && t.ccr.n == true) = true := by decide

/-- V-SYS-23: `CHK D1,D0` (R384). -/
theorem test_chk_in_range :
    after (((boot [0x4181] []).setD 0 0x10).setD 1 0x10)
      (fun t => t.ccr.x == false && t.pc == 0x1002) = true := by decide

/-- V-SYS-25: `ILLEGAL` (R385, R404). -/
theorem test_illegal :
    after (boot [0x4AFC] [])
      (fun t => t.pendVec == 4 && t.pc == 0x1000 && flags t == 0b00000) = true := by decide

/-- V-SYS-26: `(line A)` (R387, R119). -/
theorem test_line_a :
    after (boot [0xA000] [])
      (fun t => t.pendVec == 4 && t.pc == 0x1000 && flags t == 0b00000) = true := by decide

/-- V-SYS-28: `(MOVE.W #$1234,D0 on an MC68000)` (R120, R150, R404). -/
theorem test_immediate_operand_is_illegal :
    after (boot [0x303C, 0x1234] [])
      (fun t => t.pendVec == 4 && t.pc == 0x1000 && flags t == 0b00000) = true := by decide

/-! ### One step: the examples of the rules for the instructions without a vector -/

/-- R295: `ORI.B #$80,D0`, D0 = 1. -/
theorem test_ori_byte :
    after ((boot [0x0000, 0x0080] []).setD 0 1)
      (fun t => t.dreg 0 == 0x81 && flags t == 0b01000 && t.pc == 0x1004) = true := by decide

/-- R251: `SUBI.W #1,D0`, D0 = 0x8000. -/
theorem test_subi_overflow :
    after ((boot [0x0440, 0x0001] []).setD 0 0x8000) (fun t => t.dreg 0 == 0x7FFF && flags t == 0b00010) = true := by
  decide

/-- R219 on registers of one kind. -/
theorem test_exg_same_kind :
    (after (((boot [0xC342] []).setD 1 7).setD 2 9) (fun t => t.dreg 1 == 9 && t.dreg 2 == 7) &&
      after (((boot [0xC34A] []).setA 1 7).setA 2 9) (fun t => t.areg 1 == 9 && t.areg 2 == 7)) = true := by decide

/-- R249: `SUB.W D0,(A0)`, 0x1234 - 1. -/
theorem test_sub_to_memory :
    after (((boot [0x9150] [0x1234]).setD 0 1).setA 0 0x2000)
      (fun t => Memory.load t.mem .w 0x2000 == 0x1233 && flags t == 0) = true := by decide

/-- R291, R294: `AND.W D0,(A0)` and `OR.W D0,(A0)` with D0 = 0x8001 on 0x1235. -/
theorem test_and_or_to_memory :
    (after (((boot [0xC150] [0x1235]).setD 0 0x8001).setA 0 0x2000)
        (fun t => Memory.load t.mem .w 0x2000 == 1 && flags t == 0) &&
      after (((boot [0x8150] [0x1235]).setD 0 0x8001).setA 0 0x2000)
        (fun t => Memory.load t.mem .w 0x2000 == 0x9235 && flags t == 0b01000)) = true := by decide

/-- R250: `SUBA.W D0,A0` sign-extends 0xFFFF. -/
theorem test_suba_word_sign_extends :
    after (((boot [0x90C0] []).setD 0 0xFFFF).setA 0 0x2000) (fun t => t.areg 0 == 0x2001) = true := by decide

/-- R312, R313, R315 to R318, the memory forms on 0x8001 with X set. -/
theorem test_shift_memory_forms :
    ([(0xE0D0#16, 0xC000, 0b11001), (0xE3D0, 0x0002, 0b10001), (0xE7D0, 0x0003, 0b10001), (0xE6D0, 0xC000, 0b11001),
      (0xE5D0, 0x0003, 0b10001), (0xE4D0, 0xC000, 0b11001)].all (fun (w, v, f) =>
        after (((boot [w] [0x8001]).setA 0 0x2000).setCcr (ccrOf 0x10))
          (fun t => Memory.load t.mem .w 0x2000 == v && flags t == f))) = true := by decide

/-- R333: `BCLR #3,(A0)`. R331, R332: `BTST D1,(A0)`, `BCHG D1,(A0)` with D1 = 11. -/
theorem test_bit_memory_forms :
    (after ((boot [0x0890, 0x0003] [0x0F00]).setA 0 0x2000)
        (fun t => Memory.load t.mem .b 0x2000 == 0x07 && t.ccr.z == false) &&
      after (((boot [0x0310] [0x0800]).setA 0 0x2000).setD 1 11)
        (fun t => Memory.load t.mem .b 0x2000 == 0x08 && t.ccr.z == false) &&
      after (((boot [0x0350] [0x0000]).setA 0 0x2000).setD 1 11)
        (fun t => Memory.load t.mem .b 0x2000 == 0x08 && t.ccr.z)) = true := by decide

/-- R212 with size L, R214 with a control form, R384 above the bound (V-SYS-22). -/
theorem test_movea_movem_control_chk :
    (after ((boot [0x2040] []).setD 0 0x1234FFFE) (fun t => t.areg 0 == 0x1234FFFE) &&
      after (((boot [0x4890, 0x0003] []).setA 0 0x2000).setD 1 0x5678)
        (fun t => Memory.load t.mem .w 0x2002 == 0x5678 && t.areg 0 == 0x2000) &&
      after (((boot [0x4181] []).setD 0 0x11).setD 1 0x10) (fun t => t.pendVec == 6 && t.ccr.n == false)) = true := by
  decide

/-- R265, R405 (V-ARI-47): a divisor word of zero. -/
theorem test_divide_by_zero :
    after (((boot [0x80C1] []).setD 0 0x1234).setD 1 0x10000) (fun t => t.pendVec == 5 && t.dreg 0 == 0x1234) = true := by
  decide

/-! ### One step: deliveries, the guard cases, the host -/

/-- P6: the fourteen-byte frame. -/
theorem test_deliver_address_error :
    after ((((((boot [] []).setMem (Memory.store [] .l 0xC 0x1400)).setPc 0x1004).setPendVec 3).setBad 0x2001 .read true
        .data).setIr 0x3038)
      (fun t => t.areg 7 == 0x7FF2 && t.pc == 0x1400 && Memory.load t.mem .w 0x7FF2 == 0x15 &&
        Memory.load t.mem .l 0x7FF4 == 0x2001 && Memory.load t.mem .w 0x7FF8 == 0x3038 &&
        Memory.load t.mem .w 0x7FFA == 0x2700 && Memory.load t.mem .l 0x7FFC == 0x1004) = true := by decide

/-- P4, row 5: a delivery from user mode. -/
theorem test_deliver_trap_from_user_mode :
    after (((((boot [] []).setMem (Memory.store [] .l 0x80 0x1100)).setPc 0x100C).setPendVec 32).setUsp 0x6000 |>.putSr 0)
      (fun t => t.areg 7 == 0x7FFA && t.usp == 0x6000 && t.getSr == 0x2000 && t.pc == 0x1100 &&
        Memory.load t.mem .w 0x7FFA == 0 && Memory.load t.mem .l 0x7FFC == 0x100C) = true := by decide

/-- P5: level 5 against mask 3, and level 3 which is not accepted. -/
theorem test_deliver_interrupt :
    (after ((((boot [0x4E71] []).setMem (Memory.store [] .l 0x74 0x1300)).putSr 0x2300).setIpl 5)
        (fun t => t.getSr == 0x2500 && t.pc == 0x1300 && t.ipl == 0 && Memory.load t.mem .w 0x7FFA == 0x2300) &&
      after (((boot [0x4E71] []).putSr 0x2300).setIpl 3) (fun t => t.ipl == 3 && t.pc == 0x1002)) = true := by decide

/-- P8 (a): the trace latch, then its delivery. -/
theorem test_trace_latch_and_delivery :
    (after ((boot [0x4E71] []).putSr 0xA700) (fun t => t.tracePend && t.pc == 0x1002) &&
      after ((((boot [] []).setMem (Memory.store [] .l 0x24 0x1500)).putSr 0xA700).setTracePend true)
        (fun t => t.getSr == 0x2700 && t.pc == 0x1500 && !t.tracePend && Memory.load t.mem .w 0x7FFA == 0xA700)) =
      true := by decide

/-- P10 (b): an odd supervisor stack while the address-error frame is pushed. -/
theorem test_double_fault :
    (match step (((boot [] []).setA 7 0x7FFB).setPendVec 3) with | .fault .doubleFault => true | _ => false) = true := by
  decide

/-- R186: an odd program counter has no step. R184: halted with nothing pending idles. -/
theorem test_stuck_and_idle :
    ((match step ((boot [] []).setPc 0x1001) with | .fault .stuckOddPc => true | _ => false) &&
      after ((boot [0x4E71] []).setHalted true) (fun t => t.pc == 0x1000)) = true := by decide

/-- R69, R74, R79 and R67: the cases the specification leaves to a fault or a refusal. -/
theorem test_stops_by_name :
    ((match memRead .w 1 { State.reset with config := { Config.default with dataAlignFault := false } } with
        | .error (.refusal .misalignedData) _ => true | _ => false) &&
      (match memRead .l 0xFFFFE State.reset with | .error (.refusal .regionStraddle) _ => true | _ => false) &&
      (match memWrite .w 8 0 { State.reset with config := { Config.default with guardLow := 16 } } with
        | .error (.fault .fatalHostError) _ => true | _ => false) &&
      (match memFetch 0x18000 { State.reset with config :=
          { Config.default with windows := [{ lo := 0x18000, hi := 0x180FF, handlers := [] }] } } with
        | .error (.refusal .fetchFromWindow) _ => true | _ => false)) = true := by decide

/-- S6: open bus in a window without a handler. -/
theorem test_open_bus :
    let s := (boot [0x4A79, 0x0001, 0x8040] []).setConfig
      { Config.default with windows := [{ lo := 0x18000, hi := 0x180FF, handlers := [] }] }
    after s (fun t => t.ccr.n && !t.ccr.z) = true ∧
    (match memRead .w 0x18040 s with | .ok v _ => v == 0xFFFF | _ => false) = true := by decide

/-- R460 on an image: SSP, A7 and pc come from the longs at 0 and 4. -/
theorem test_host_reset :
    (match hostReset (State.reset.setMem (Memory.store (Memory.store [] .l 0 0x8000) .l 4 0x1000)) with
      | .next t => t.ssp == 0x8000 && t.areg 7 == 0x8000 && t.pc == 0x1000 && t.getSr == 0x2700
      | _ => false) = true := by decide

/-- R187, R189 and the example of R199: two NOPs and a STOP in a chunk of five. -/
theorem test_chunk_ends_at_stop :
    (match executeChunk 5 (boot [0x4E71, 0x4E71, 0x4E72, 0x2700, 0x4E71] []) with
      | .next t => t.pc == 0x1008 && t.halted
      | _ => false) = true := by decide

/-- The word the opcode table numbers reaches the step that fetches it. -/
theorem test_with_fetch_word :
    decodeTableWord 16 0x4E72 = some .stop ∧ after (State.reset.withFetchWord 16 0x4E72) (fun t => t.halted && t.pc == 4) := by
  decide

/-! ### Witnesses: states and operands that meet the hypotheses of each statement, clause by clause -/

theorem witness_DecodeEncode :
    (Instr.ori .b (.dn 0)).wf ∧ (Instr.rolMem .absL).wf ∧ (Instr.bcc .le 0xFF).wf ∧ (Instr.movea .w (.an 7) 7).wf := by
  decide

theorem witness_DecodeSound :
    decodeOp 0x0000#16 = .ok (.ori .b (.dn 0)) ∧ decodeOp 0xEFBF#16 = .ok (.rolReg .l (.reg 7) 7) := by decide

theorem witness_ResetState : inRam State.reset.config .l 0 = true ∧ inRam State.reset.config .l 4 = true := by decide

theorem witness_TransitionOrder :
    let s := boot [0x4E71] []
    (s.setPendVec 3).pendVec ≠ 0 ∧
    (s.pendVec = 0 ∧ (s.setTracePend true).tracePend = true) ∧
    ((s.setIpl 7).ipl = 7 ∧ ((s.setImask 2).setIpl 3).imask.toNat < ((s.setImask 2).setIpl 3).ipl.toNat) ∧
    (s.ipl = 0 ∧ s.tracePend = false ∧ s.halted = false ∧ isOdd s.pc = false) ∧
    ((s.setIpl 6).ipl ≠ 7 ∧ (s.setIpl 6).ipl.toNat ≤ (s.setIpl 6).imask.toNat) ∧
    (s.setHalted true).halted = true ∧ isOdd (s.setPc 0x1001).pc = true := by decide

theorem witness_StepRunsDecoded :
    let s := boot [0x4E71] []
    enabled s = .execOne ∧ fetchable s 0 = true ∧ decodeOp (s.streamWord 0) = .ok .nop := by decide

theorem witness_StepIllegalWord :
    [(0xA000#16, DecodeError.lineA), (0xFFFF#16, .lineF), (0x303C#16, .unassigned)].all (fun (w, e) =>
      let s := boot [w] []
      enabled s == .execOne && fetchable s 0 && decide (decodeOp (s.streamWord 0) = .error e)) = true := by decide

theorem witness_TraceLatch :
    ∃ t, enabled ((boot [0x4E71] []).setT true) = .execOne ∧ step ((boot [0x4E71] []).setT true) = .next t :=
  ⟨_, by decide, rfl⟩

theorem witness_ChunkCounts :
    let s := boot [0x4E71, 0x4E71] []
    isOdd (s.setPc 0x1001).pc = true ∧
    (isOdd s.pc = false ∧ (s.setHalted true).halted = true ∧ deliverable (s.setHalted true) = false) ∧
    (s.halted = false ∧ deliverable s = false ∧ (quietRun 0 ((s.setAttention false).setBudget 0 0)).isSome = true ∧
      (quietRun 2 ((s.setAttention false).setBudget 2 0)).isSome = true) ∧
    quiescent (s.setHalted true) = true := by decide

/-- Halted with an odd pc is not final (R186, R197): the host halts the machine after a reset vector with an odd pc. -/
theorem test_quiescent_odd_pc :
    let s := State.reset.setMem (Memory.store [] .l 4 0x1001)
    (match hostReset s with | .next t => t.pc == 0x1001 && (hostHalt t).halted && !quiescent (hostHalt t) | _ => false) =
      true := by decide

theorem witness_HostSignals : (1 : BitVec 3) ≠ 0 ∧ (7 : BitVec 3) ≠ 0 := by decide

theorem witness_PrivilegedInUserMode :
    (isPrivileged .rte = true ∧ isPrivileged (.moveToSr (.dn 0)) = true ∧ ((boot [] []).putSr 0).sup = false) ∧
    (isPrivileged .nop = false ∧ (boot [] []).sup = true ∧
      ran .nop ((boot [] []).setPendVec 8) (fun t => t.pendVec == 8)) := by decide

/-- A TRAP, from either mode, with the stack at the lowest RAM addresses that hold the frame too. -/
theorem witness_NormalFrame :
    [boot [] [], (boot [] []).putSr 0, (boot [] []).setA 7 6].all (fun s =>
      let sp := frameBase s
      let slot := BitVec.ofNat 32 (4 * 32)
      let m := Memory.store (Memory.store s.mem .l (busAddr s.config (sp - 4)) s.pc) .w (busAddr s.config (sp - 6))
        (s.getSr.setWidth 32)
      !isOdd sp && inRam s.config .l (sp - 4) && guardFree s.config (busAddr s.config (sp - 4)) &&
        inRam s.config .w (sp - 6) && guardFree s.config (busAddr s.config (sp - 6)) && inRam s.config .l slot &&
        !isOdd (Memory.load m .l (busAddr s.config slot))) = true := by decide

theorem witness_AddressErrorFrame :
    [boot [] [], (boot [] []).putSr 0, (boot [] []).setBad 0x1001 .read true .instruction].all (fun s =>
      let sp := frameBase s
      let c := s.config
      let ok := fun (sz : Size) (a : Word) => inRam c sz a && guardFree c (busAddr c a)
      let status : Word := (if s.badDir = .read then 16 else 0) + (if s.badS then 4 else 0) +
        (if s.badCtx = .instruction then 2 else 1)
      let m1 := Memory.store (Memory.store s.mem .l (busAddr c (sp - 4)) s.pc) .w (busAddr c (sp - 6))
        (s.getSr.setWidth 32)
      let m := Memory.store (Memory.store (Memory.store m1 .w (busAddr c (sp - 8)) (s.ir.setWidth 32)) .l
        (busAddr c (sp - 12)) s.badAddr) .w (busAddr c (sp - 14)) status
      !isOdd sp && ok .l (sp - 4) && ok .w (sp - 6) && ok .w (sp - 8) && ok .l (sp - 12) && ok .w (sp - 14) &&
        inRam c .l 12 && !isOdd (Memory.load m .l (busAddr c 12))) = true := by decide

theorem witness_FaultInDelivery :
    (((boot [] []).setA 7 0x7FFF).config.dataAlignFault = true ∧ isOdd (frameBase ((boot [] []).setA 7 0x7FFF)) = true) ∧
    (let s := (boot [] []).setMem (Memory.store [] .l 0x80 0x1101)
     let sp := frameBase s
     let m := Memory.store (Memory.store s.mem .l (busAddr s.config (sp - 4)) s.pc) .w (busAddr s.config (sp - 6))
       (s.getSr.setWidth 32)
     isOdd sp = false ∧ inRam s.config .l (sp - 4) = true ∧ guardFree s.config (busAddr s.config (sp - 4)) = true ∧
      inRam s.config .w (sp - 6) = true ∧ guardFree s.config (busAddr s.config (sp - 6)) = true ∧
      inRam s.config .l 0x80 = true ∧ isOdd (Memory.load m .l (busAddr s.config 0x80)) = true) := by decide

/-- The clause of an odd handler address in the long at 12, from either mode. -/
theorem witness_FaultInDelivery_double :
    let r := (boot [] []).setMem (Memory.store [] .l 12 0x1101)
    [r, r.putSr 0].all (fun s =>
      let sp := frameBase s
      let c := s.config
      let ok := fun (sz : Size) (a : Word) => inRam c sz a && guardFree c (busAddr c a)
      let status : Word := (if s.badDir = .read then 16 else 0) + (if s.badS then 4 else 0) +
        (if s.badCtx = .instruction then 2 else 1)
      let m1 := Memory.store (Memory.store s.mem .l (busAddr c (sp - 4)) s.pc) .w (busAddr c (sp - 6))
        (s.getSr.setWidth 32)
      let m := Memory.store (Memory.store (Memory.store m1 .w (busAddr c (sp - 8)) (s.ir.setWidth 32)) .l
        (busAddr c (sp - 12)) s.badAddr) .w (busAddr c (sp - 14)) status
      !isOdd sp && ok .l (sp - 4) && ok .w (sp - 6) && ok .w (sp - 8) && ok .l (sp - 12) && ok .w (sp - 14) &&
        inRam c .l 12 && isOdd (Memory.load m .l (busAddr c 12)) && ((12 : Word) == vectorSlot 3)) = true := by decide

theorem witness_RteUndoesDelivery :
    [boot [] [], (boot [] []).putSr 0x001F].all (fun s =>
      let sp := frameBase s
      let slot := BitVec.ofNat 32 (4 * 32)
      let m := Memory.store (Memory.store s.mem .l (busAddr s.config (sp - 4)) s.pc) .w (busAddr s.config (sp - 6))
        (s.getSr.setWidth 32)
      decide (3 ≤ s.config.addrBits) && !isOdd s.pc && !isOdd sp && inRam s.config .l (sp - 4) &&
        guardFree s.config (busAddr s.config (sp - 4)) && inRam s.config .w (sp - 6) &&
        guardFree s.config (busAddr s.config (sp - 6)) && inRam s.config .l slot &&
        !isOdd (Memory.load m .l (busAddr s.config slot))) = true := by decide

theorem witness_ExceptionRegisters :
    Instr.wf (.trap 15) = true ∧ (∃ t, exec (.trap 15) State.reset = .next t) ∧ (47 : BitVec 8) ∈ raisesVector (.trap 15) :=
  ⟨by decide, ⟨_, rfl⟩, by decide⟩

theorem witness_FrameRegisters :
    Instr.wf (.movemToRegs .l (.post 7)) = true ∧ (∃ t, exec (.movemToRegs .l (.post 7)) State.reset = .next t) ∧
    (0 : Fin 8) ∉ writesD (.movemToRegs .l (.post 7)) State.reset ∧
    (0 : Fin 8) ∉ writesA (.movemToRegs .l (.post 7)) State.reset := ⟨by decide, ⟨_, rfl⟩, by decide⟩

theorem witness_FrameNoStore :
    Instr.wf (.addDnEa .w 0 (.ind 0)) = true ∧ storesTo (.addDnEa .w 0 (.ind 0)) State.reset = [0, 1] ∧
    Instr.wf (.not .l (.dn 0)) = true ∧ storesTo (.not .l (.dn 0)) State.reset = [] ∧
    ∃ t, exec (.not .l (.dn 0)) State.reset = .next t := ⟨by decide, by decide, by decide, by decide, _, rfl⟩

theorem witness_FrameStore :
    Instr.wf (.clr .w (.ind 0)) = true ∧ 2 ∉ storesTo (.clr .w (.ind 0)) State.reset ∧
    ∃ t, exec (.clr .w (.ind 0)) State.reset = .next t := ⟨by decide, by decide, _, rfl⟩

theorem witness_FrameStatus :
    writesNoFlag .nop = true ∧ keepsX (.moveq 0 0) = true ∧ writesZOnly (.btstDn 0 (.dn 0)) = true ∧ writesSr .nop = false ∧
    (∃ t, exec .nop State.reset = .next t) ∧ (∃ t, exec (.moveq 0 0) State.reset = .next t) ∧
    ∃ t, exec (.btstDn 0 (.dn 0)) State.reset = .next t :=
  ⟨by decide, by decide, by decide, by decide, ⟨_, rfl⟩, ⟨_, rfl⟩, _, rfl⟩

theorem witness_FrameSpecial :
    Instr.wf .stop = true ∧ ran .stop State.reset (fun t => t.halted) = true ∧
    ran .nop State.reset (fun t => t.sup == State.reset.sup) = true ∧
    (Instr.wf (.clr .w (.ind 0)) = true ∧ drawsFree (.clr .w (.ind 0)) = false ∧
      ran (.clr .w (.ind 0)) State.reset (fun t => t.devLog == []) = true) := by decide

/-- A state with a device window, a handler in it, and A0 at the handler. -/
def deviceSite : State :=
  { ((boot [] []).setA 0 0x18010) with
    config := { Config.default with windows := [{ lo := 0x18000, hi := 0x180FF, handlers := [(0x18010, 0x18011)] }] } }

/-- A read at a handler, a read where there is none, and a write: each reaches the device, once (R77, R472). -/
theorem witness_FrameSpecial_device :
    Instr.wf (.tst .b (.ind 0)) = true ∧ Instr.wf (.clr .b (.ind 0)) = true ∧
    (∃ t, exec (.tst .b (.ind 0)) deviceSite = .next t ∧
      t.devLog.map (fun e => (e.dir, e.addr)) = [(.read, 0x18010)]) ∧
    (∃ t, exec (.tst .b (.ind 0)) (deviceSite.setA 0 0x18040) = .next t ∧
      t.devLog.map (fun e => (e.dir, e.addr, e.value)) = [(.read, 0x18040, 0xFF)]) ∧
    (∃ t, exec (.clr .b (.ind 0)) deviceSite = .next t ∧
      t.devLog.map (fun e => (e.dir, e.addr)) = [(.write, 0x18010)]) := by
  refine ⟨by decide, by decide, ⟨_, rfl, ?_⟩, ⟨_, rfl, ?_⟩, ⟨_, rfl, ?_⟩⟩ <;>
    exact congrArg (List.map _) (State.deviceEvent_devLog _ _)

theorem witness_UserModeConfined :
    (State.reset.putSr 0).sup = false ∧ ∃ t, exec .nop (State.reset.putSr 0) = .next t := ⟨by decide, _, rfl⟩

theorem witness_ModeSwap :
    let s := boot [] []
    ((0x2000#16).getLsbD 13 = s.sup ∧ (0x0000#16).getLsbD 13 ≠ s.sup) ∧
    ((0x0000#16).getLsbD 13 = (s.putSr 0).sup ∧ (0x2000#16).getLsbD 13 ≠ (s.putSr 0).sup) ∧ s.sup = true ∧
    (s.putSr 0).sup = false := by decide

theorem witness_AddSubFlags :
    [(Size.b, (0xFF : Word)), (.b, 0x80), (.w, 0xFFFF), (.w, 0x8000), (.l, 0xFFFFFFFF), (.l, 0)].all
      (fun (sz, a) => trunc sz a == a &&
        trunc sz ({ r := a, c := true, v := false } : AluResult).r == ({ r := a, c := true, v := false } : AluResult).r) =
      true := by decide

theorem witness_ShiftValues : trunc .b 0xFF = 0xFF ∧ trunc .w 0x8000 = 0x8000 ∧ trunc .l 0xFFFFFFFF = 0xFFFFFFFF := by
  decide

/-- The two ends of the signed quotient's range and the top of the unsigned one. -/
theorem witness_MulDivArithmetic :
    (signedWord 1 ≠ 0 ∧ -32768 ≤ (0xFFFF8000 : Word).toInt.tdiv (signedWord 1) ∧
      (0xFFFF8000 : Word).toInt.tdiv (signedWord 1) ≤ 32767 ∧ (0x00007FFF : Word).toInt.tdiv (signedWord 1) ≤ 32767) ∧
    ((0xFFFF : Word).toNat % 65536 ≠ 0 ∧ (0xFFFEFFFF : Word).toNat / ((0xFFFF : Word).toNat % 65536) ≤ 65535) := by decide

theorem witness_StoreThenLoad :
    let s := State.reset
    (writable s.config .b 0xFFFFF = true ∧ inRam s.config .b 0xFFFFF = true) ∧
    (writable s.config .l 0xFFFFC = true ∧ inRam s.config .l 0xFFFFC = true) ∧
    (writable s.config .w 0 = true ∧ inRam s.config .w 0 = true ∧ Memory.wf s.mem) := by decide

theorem witness_AccessFaults :
    (State.reset.config.dataAlignFault = true ∧ aligned .w 1 = false ∧ aligned .l 0xFFFFFFFF = false ∧ isOdd 1 = true ∧ isOdd 0xFFFFFFFF = true ∧ isOdd 0xFFFFFFFE = false) ∧
    (let c := { Config.default with guardLow := 2, guardTop := [0x100] }
     aligned .w 0 = true ∧ guardFree c (busAddr c 0) = false ∧ aligned .b 0x100 = true ∧
      guardFree c (busAddr c 0x100) = false) := by decide

theorem witness_AccessFaults_stops :
    (let c := { Config.default with dataAlignFault := false, windows := [{ lo := 0x18000, hi := 0x180FF, handlers := [] }] }
     c.dataAlignFault = false ∧ aligned .w 0x2001 = false ∧
      (aligned .l 0xFFFFE = true ∧ oneRegion c (busAddr c 0xFFFFE) 4 = false ∧ guardFree c (busAddr c 0xFFFFE) = true) ∧
      (aligned .l 0xFFFFFE = true ∧ oneRegion c (busAddr c 0xFFFFFE) 4 = false) ∧
      (isOdd 0x18000 = false ∧ oneRegion c (busAddr c 0x18000) 2 = true ∧ regionAt c (busAddr c 0x18000) = .window)) ∧
    (let c := { Config.default with windows := [{ lo := 0x18001, hi := 0x18001, handlers := [] }] }
     isOdd 0x18000 = false ∧ oneRegion c (busAddr c 0x18000) 2 = false) ∧ isOdd 0xFFFFFFFF = true := by decide

theorem witness_AddressMap :
    (busAddr Config.default 0xFF002000 = busAddr Config.default 0x2000 ∧ aligned .l 0xFF002000 = true) ∧
    (readable Config.default .w 0x100000 = true ∧ regionAt Config.default (busAddr Config.default 0x100000) = .hole ∧
      guardFree Config.default (busAddr Config.default 0x100000) = true ∧
      regionAt Config.default (busAddr Config.default 0xFFFFFFFE) = .hole) ∧
    (let c := { Config.default with windows := [{ lo := 0x18000, hi := 0x180FF, handlers := [(0x18010, 0x18011)] }] }
     (readable c .w 0x18040 = true ∧ regionAt c (busAddr c 0x18040) = .window ∧
      handled c (busAddr c 0x18040) = false) ∧
     (readable c .w 0x18010 = true ∧ handled c (busAddr c 0x18010) = true) ∧
     (writable c .w 0x18040 = true ∧ writable c .w 0x18010 = true ∧
      regionAt c (busAddr c 0x18010) = .window)) := by decide

theorem witness_OperandForms :
    fetchable (boot [0x0000, 0x0000] []) 0 = true ∧ fetchable (boot [0x0000, 0x0000] []) 1 = true := by decide

theorem witness_WriteBackIdempotent :
    let s := (boot [] [0x1234]).setA 0 0x2000
    (operandWritable .w (.post 0) s = true ∧ eaHandle .w (.post 0) s = .mem 0x2000 ∧
      regionAt s.config (busAddr s.config 0x2000) ≠ .window) ∧
    (operandWritable .b (.pre 7) s = true ∧ eaHandle .b (.pre 7) s = .mem (s.areg 7 - 2) ∧
      regionAt s.config (busAddr s.config (s.areg 7 - 2)) ≠ .window) := by decide

/-- A state for the witnesses of the result statements: three words of the stream, A0 and A1 in RAM. -/
def site : State := ((boot [0x0010, 0x2000, 0x0000] [0x1234, 0x5678]).setA 0 0x2004).setA 1 0x2004

/-- The operand forms in a register and in memory, with none, one and two extension words. -/
def forms : List Ea := [.dn 0, .ind 0, .post 0, .pre 0, .disp 0, .index 0, .absW, .absL]

theorem witness_MoveResult :
    [Size.b, .w, .l].all (fun sz => forms.all (fun e =>
      operandReadable sz e site && operandWritable sz (.ind 1) (afterOperand sz e site))) = true := by decide

theorem witness_AddressRegisterResult :
    [Size.b, .w, .l].all (fun sz => (Ea.an 7 :: forms).all (fun e => operandReadable sz e site)) = true := by decide

theorem witness_AddressFormResult :
    eaIsCtrl (.ind 0) = true ∧ wordsReady site (eaWords (.ind 0)) = true ∧ eaHandle .l (.ind 0) site = .mem 0x2004 ∧
    pushable .l site = true ∧ eaIsCtrl .absL = true ∧ wordsReady site (eaWords .absL) = true ∧
    eaHandle .l .absL site = .mem 0x00102000 := by decide

theorem witness_LinkResult :
    wordsReady site 1 = true ∧ pushable .l site = true ∧ readable site.config .l (site.areg 0) = true ∧
    readable site.config .l (site.areg 7) = true := by decide

/-- The empty mask, one register and all sixteen, in every form. -/
theorem witness_MovemResult :
    [0x0000#16, 0x0001, 0xFFFF].all (fun mask =>
      let s := (boot [mask] []).setA 0 0x3000
      let u := s.afterWords 1
      let ks := List.range (maskRegs (s.streamWord 0)).length
      wordsReady s 1 && wordsReady u (eaWords (.ind 0)) && eaHandle .l (.ind 0) u == .mem 0x3000 &&
        ks.all (fun k => writable s.config .l (transferUp .l 0x3000 k) && readable s.config .l (transferUp .l 0x3000 k) &&
          writable s.config .l (transferDown .l (s.areg 0) k) &&
          readable s.config .l (transferUp .l (s.areg 0) k))) = true := by decide

theorem witness_MovepResult :
    wordsReady site 1 = true ∧
    (let a := site.areg 0 + (site.streamWord 0).signExtend 32
     (writable site.config .b a = true ∧ writable site.config .b (a + 2) = true ∧ writable site.config .b (a + 4) = true ∧
      writable site.config .b (a + 6) = true) ∧
     (readable site.config .b a = true ∧ readable site.config .b (a + 2) = true ∧ readable site.config .b (a + 4) = true ∧
      readable site.config .b (a + 6) = true)) := by decide

theorem witness_OperandToRegisterResult :
    [Size.b, .w, .l].all (fun sz => forms.all (fun e => operandReadable sz e site)) = true := by decide

theorem witness_RegisterToOperandResult :
    [Size.b, .w, .l].all (fun sz => forms.all (fun e => operandWritable sz e site)) = true := by decide

theorem witness_ImmediateResult :
    [Size.b, .w, .l].all (fun sz => [Ea.dn 0, .ind 0, .post 0, .pre 0].all (fun e =>
      wordsReady site (immWords sz) && operandWritable sz e (site.afterWords (immWords sz)))) = true := by decide

theorem witness_QuickResult : (∀ n, Ea.dn 0 ≠ .an n) ∧ operandWritable .b (.dn 0) site = true ∧
    (∀ n, Ea.ind 0 ≠ .an n) ∧ operandWritable .l (.ind 0) site = true := by decide

theorem witness_ExtendedResult :
    [Size.b, .w, .l].all (fun sz =>
      operandReadable sz (.pre 0) site && operandWritable sz (.pre 1) (afterOperand sz (.pre 0) site) &&
        operandWritable sz (.pre 0) (afterOperand sz (.pre 0) site)) = true := by decide

theorem witness_UnaryResult :
    [Size.b, .w, .l].all (fun sz => forms.all (fun e => operandWritable sz e site)) = true := by decide

theorem witness_CompareResult :
    [Size.b, .w, .l].all (fun sz => forms.all (fun e => operandReadable sz e site) &&
      wordsReady site (immWords sz) && operandReadable sz (.ind 0) (site.afterWords (immWords sz)) &&
      operandReadable sz (.post 0) site && operandReadable sz (.post 1) (afterOperand sz (.post 0) site)) = true := by
  decide

/-- A zero divisor, the last quotient that fits and the first that does not, unsigned and signed. -/
theorem witness_MultiplyDivideResult :
    operandReadable .w (.dn 1) site = true ∧
    (operandValue .w (.dn 1) site = 0 ∧ operandValue .w (.dn 1) (site.setD 1 0xFFFF) ≠ 0) ∧
    ((0xFFFEFFFF : Word).toNat / (0xFFFF : Word).toNat ≤ 0xFFFF ∧
      0xFFFF < (0xFFFF0000 : Word).toNat / (0xFFFF : Word).toNat) ∧
    (-32768 ≤ (0xFFFF8000 : Word).toInt.tdiv (signedWord 1) ∧ (0xFFFF8000 : Word).toInt.tdiv (signedWord 1) ≤ 32767) ∧
    (-32768 ≤ (0x7FFF : Word).toInt.tdiv (signedWord 1) ∧ (0x7FFF : Word).toInt.tdiv (signedWord 1) ≤ 32767) ∧
    ((0xFFFF7FFF : Word).toInt.tdiv (signedWord 1) < -32768 ∧ 32767 < (0x8000 : Word).toInt.tdiv (signedWord 1)) := by
  decide

theorem witness_ShiftResult : forms.all (fun e => operandWritable .w e site) = true := by decide

theorem witness_BitResult :
    forms.all (fun e => operandWritable .b e site && operandReadable .b e site) = true ∧ wordsReady site 1 = true ∧
    operandReadable .b (.ind 0) (site.afterWords 1) = true ∧ operandWritable .b (.ind 0) (site.afterWords 1) = true := by
  decide

/-- Valid digits and invalid ones, in registers and in memory. -/
theorem witness_BcdResult :
    let s := site.setD 1 0x9A
    let m := ((boot [] [0x0019, 0x2800]).setA 0 0x2002).setA 1 0x2003
    let b := ((boot [] [0x001A, 0x2800]).setA 0 0x2002).setA 1 0x2003
    (digitsValid (trunc .b (s.dreg 0)) = true ∧ (digitsValid (trunc .b (s.dreg 1)) && digitsValid 0) = false) ∧
    (operandReadable .b (.pre 0) m = true ∧ operandWritable .b (.pre 1) (afterOperand .b (.pre 0) m) = true ∧
      digitsValid (operandValue .b (.pre 0) m) = true ∧
      digitsValid (operandValue .b (.pre 1) (afterOperand .b (.pre 0) m)) = true) ∧
    (operandReadable .b (.pre 0) b = true ∧ digitsValid (operandValue .b (.pre 0) b) = false) ∧
    (operandWritable .b (.dn 0) s = true ∧ digitsValid (operandValue .b (.dn 0) s) = true ∧
      digitsValid (operandValue .b (.dn 1) s) = false) := by decide

/-- A branch with and without a displacement word, a condition that holds and one that does not, DBcc's counter at its
end and before it. -/
theorem witness_BranchResult :
    (wordsReady site 0 = true ∧ wordsReady site 1 = true ∧ pushable .l site = true) ∧
    (condHolds site.ccr .ne = true ∧ condHolds site.ccr .eq = false) ∧
    ((site.dreg 0).toNat % 65536 = 0 ∧ ((site.setD 0 1).dreg 0).toNat % 65536 ≠ 0) := by decide

theorem witness_ReturnResult :
    readable site.config .l (site.areg 7) = true ∧ readable site.config .w (site.areg 7) = true ∧
    readable site.config .l (site.areg 7 + 2) = true ∧ site.sup = true := by decide

theorem witness_CcrResult :
    wordsReady site 1 = true ∧ forms.all (fun e => operandReadable .w e site && operandWritable .w e site) = true := by
  decide

theorem witness_SupervisorResult :
    site.sup = true ∧ wordsReady site 1 = true ∧ forms.all (fun e => operandReadable .w e site) = true := by decide

/-- TRAPV on both values of V; CHK below 0, above the bound, and at both ends of the range. -/
theorem witness_TrapResult :
    site.ccr.v = false ∧ (site.setCcr (ccrOf 2)).ccr.v = true ∧ operandReadable .w (.dn 1) site = true ∧
    ((0xFFFF : Word).setWidth 16).toInt < 0 ∧ ((0x10 : Word).setWidth 16).toInt < ((0x11 : Word).setWidth 16).toInt ∧
    0 ≤ ((0 : Word).setWidth 16).toInt ∧ ((0x10 : Word).setWidth 16).toInt ≤ ((0x10 : Word).setWidth 16).toInt := by decide

theorem witness_StepKeepsInv : Machine.Inv State.reset ∧ Machine.Inv (boot [0x4E71] [0x1234]) ∧ ∃ t, step (boot [0x4E71] [0x1234]) = .next t := by
  refine ⟨?_, ?_, _, rfl⟩ <;> unfold Machine.Inv <;> decide

theorem witness_StepKeepsVectors :
    (boot [0x4E71] []).pendVec ∈ pendable (boot [0x4E71] []).config ∧ ∃ t, step (boot [0x4E71] []) = .next t :=
  ⟨by decide, _, rfl⟩

/-- A delivery enters supervisor mode; MOVE to SR leaves it. -/
theorem witness_ModeChanges :
    (after (((boot [] []).putSr 0).setPendVec 32) (fun t => t.sup) && after (boot [0x46C0] []) (fun t => !t.sup)) =
      true := by decide

end Sys2Proof.Tests
end

section
/-! SUPPORT. The family Flags: what a condition tests, and what `addF`, `subF` and the flag groups mean as arithmetic on
the numbers their operands stand for; then the proofs of Conditions and AddSubFlags. -/
namespace Sys2Proof.Machine

/-! ### The condition tests (R14) -/

theorem condHolds_hi (f : Ccr) : condHolds f .hi = true ↔ f.c = false ∧ f.z = false := by simp [condHolds]
theorem condHolds_ls (f : Ccr) : condHolds f .ls = true ↔ f.c = true ∨ f.z = true := by simp [condHolds]
theorem condHolds_cc (f : Ccr) : condHolds f .cc = true ↔ f.c = false := by simp [condHolds]
theorem condHolds_cs (f : Ccr) : condHolds f .cs = true ↔ f.c = true := .rfl
theorem condHolds_ne (f : Ccr) : condHolds f .ne = true ↔ f.z = false := by simp [condHolds]
theorem condHolds_eq (f : Ccr) : condHolds f .eq = true ↔ f.z = true := .rfl
theorem condHolds_vc (f : Ccr) : condHolds f .vc = true ↔ f.v = false := by simp [condHolds]
theorem condHolds_vs (f : Ccr) : condHolds f .vs = true ↔ f.v = true := .rfl
theorem condHolds_pl (f : Ccr) : condHolds f .pl = true ↔ f.n = false := by simp [condHolds]
theorem condHolds_mi (f : Ccr) : condHolds f .mi = true ↔ f.n = true := .rfl
theorem condHolds_ge (f : Ccr) : condHolds f .ge = true ↔ f.n = f.v := by simp [condHolds]
theorem condHolds_lt (f : Ccr) : condHolds f .lt = true ↔ f.n ≠ f.v := by simp [condHolds]
theorem condHolds_gt (f : Ccr) : condHolds f .gt = true ↔ f.z = false ∧ f.n = f.v := by simp [condHolds]
theorem condHolds_le (f : Ccr) : condHolds f .le = true ↔ f.z = true ∨ f.n ≠ f.v := by simp [condHolds]

/-! ### A value of a size, its top bit and its sign (R7, R8) -/

theorem two_pow_sizeBits (sz : Size) : 2 ^ sizeBits sz = 2 * 2 ^ (sizeBits sz - 1) := by cases sz <;> rfl

theorem two_pow_sizeBits_le (sz : Size) : 2 ^ sizeBits sz ≤ 2 ^ 32 := by cases sz <;> decide

theorem trunc_toNat (sz : Size) (v : Word) : (trunc sz v).toNat = v.toNat % 2 ^ sizeBits sz := by
  cases sz with
  | b => simp only [trunc, sizeBits, BitVec.toNat_setWidth]; omega
  | w => simp only [trunc, sizeBits, BitVec.toNat_setWidth]; omega
  | l => exact (Nat.mod_eq_of_lt v.isLt).symm

theorem toNat_lt_of_trunc_eq {sz : Size} {v : Word} (h : trunc sz v = v) : v.toNat < 2 ^ sizeBits sz := by
  rw [← h, trunc_toNat]
  exact Nat.mod_lt _ (Nat.two_pow_pos _)

theorem msb_iff {sz : Size} {v : Word} (h : v.toNat < 2 ^ sizeBits sz) :
    msb sz v = true ↔ 2 ^ (sizeBits sz - 1) ≤ v.toNat := by
  constructor
  · exact Nat.ge_two_pow_of_testBit
  · intro hge
    exact Nat.testBit_of_two_pow_le_and_two_pow_add_one_gt hge (by rw [pow_succ]; have := two_pow_sizeBits sz; omega)

theorem signedOf_eq {sz : Size} {v : Word} (h : v.toNat < 2 ^ sizeBits sz) :
    signedOf sz v = if 2 ^ (sizeBits sz - 1) ≤ v.toNat then (v.toNat : Int) - 2 ^ sizeBits sz else v.toNat := by
  simp only [signedOf, msb_iff h]

/-! ### Addition and subtraction (R13) -/

section
variable (sz : Size) (a b : Word) (x : Bool)

theorem addF_r_toNat : (addF sz a b x).r.toNat = (b.toNat + a.toNat + x.toNat) % 2 ^ sizeBits sz := by
  have hlt := Nat.mod_lt (b.toNat + a.toNat + x.toNat) (Nat.two_pow_pos (sizeBits sz))
  exact Nat.mod_eq_of_lt (hlt.trans_le (two_pow_sizeBits_le sz))

theorem addF_c_iff : (addF sz a b x).c = true ↔ 2 ^ sizeBits sz ≤ b.toNat + a.toNat + x.toNat := decide_eq_true_iff

theorem addF_v_iff_msb : (addF sz a b x).v = true ↔
    (msb sz a = true ↔ msb sz b = true) ∧ ¬ (msb sz (addF sz a b x).r = true ↔ msb sz b = true) := by
  simp [addF]

theorem subF_r_toNat :
    ((subF sz a b x).r.toNat : Int) = ((b.toNat : Int) - a.toNat - x.toNat) % 2 ^ sizeBits sz := by
  have hpos : (0 : Int) < 2 ^ sizeBits sz := by positivity
  have hle : (2 : Int) ^ sizeBits sz ≤ 2 ^ 32 := by exact_mod_cast two_pow_sizeBits_le sz
  have h0 := Int.emod_nonneg ((b.toNat : Int) - a.toNat - x.toNat) hpos.ne'
  have hlt := Int.emod_lt_of_pos ((b.toNat : Int) - a.toNat - x.toNat) hpos
  simp only [subF, BitVec.toNat_ofInt]
  omega

theorem subF_c_iff : (subF sz a b x).c = true ↔ b.toNat < a.toNat + x.toNat := by
  simp only [subF, decide_eq_true_eq]
  omega

theorem subF_v_iff_msb : (subF sz a b x).v = true ↔
    ¬ (msb sz a = true ↔ msb sz b = true) ∧ ¬ (msb sz (subF sz a b x).r = true ↔ msb sz b = true) := by
  simp [subF]

variable {sz a b}

/-- The wrapped sum is the sum, or the sum less one modulus. Operands of one sign whose wrapped sum has the other are
exactly those whose signed sum leaves the range. -/
theorem addF_v_iff (ha : trunc sz a = a) (hb : trunc sz b = b) :
    (addF sz a b x).v = true ↔
      ¬ (-2 ^ (sizeBits sz - 1) ≤ signedOf sz b + signedOf sz a + x.toNat ∧
        signedOf sz b + signedOf sz a + x.toNat < 2 ^ (sizeBits sz - 1)) := by
  have hA := toNat_lt_of_trunc_eq ha
  have hB := toNat_lt_of_trunc_eq hb
  have hr := addF_r_toNat sz a b x
  have hR : (addF sz a b x).r.toNat < 2 ^ sizeBits sz := hr ▸ Nat.mod_lt _ (Nat.two_pow_pos _)
  have hx := x.toNat_le
  rw [addF_v_iff_msb, msb_iff hA, msb_iff hB, msb_iff hR, signedOf_eq hA, signedOf_eq hB]
  cases sz <;> simp only [sizeBits] at * <;> omega

/-- As `addF_v_iff`: the wrapped difference is the difference plus at most one modulus, and only operands of two signs
can leave the range. -/
theorem subF_v_iff (ha : trunc sz a = a) (hb : trunc sz b = b) :
    (subF sz a b x).v = true ↔
      ¬ (-2 ^ (sizeBits sz - 1) ≤ signedOf sz b - signedOf sz a - x.toNat ∧
        signedOf sz b - signedOf sz a - x.toNat < 2 ^ (sizeBits sz - 1)) := by
  have hA := toNat_lt_of_trunc_eq ha
  have hB := toNat_lt_of_trunc_eq hb
  have hr := subF_r_toNat sz a b x
  have hR : (subF sz a b x).r.toNat < 2 ^ sizeBits sz := by
    exact_mod_cast hr ▸ Int.emod_lt_of_pos _ (by positivity)
  have hx := x.toNat_le
  rw [subF_v_iff_msb, msb_iff hA, msb_iff hB, msb_iff hR, signedOf_eq hA, signedOf_eq hB]
  cases sz <;> simp only [sizeBits] at * <;> omega

end

/-! ### The flags of a result (R13, R241) -/

theorem beq_zero_iff_toNat (r : Word) : (r == 0) = true ↔ r.toNat = 0 := by
  simp [← BitVec.toNat_inj]

theorem ccrArithX_z_of_zero {o : AluResult} (sz : Size) (old : Ccr) (h : o.r.toNat = 0) :
    (ccrArithX sz o old).z = old.z := by
  simp only [ccrArithX, (beq_zero_iff_toNat o.r).2 h, Bool.true_and]

theorem ccrArithX_z_of_nonzero {o : AluResult} (sz : Size) (old : Ccr) (h : o.r.toNat ≠ 0) :
    (ccrArithX sz o old).z = false := by
  have hz : (o.r == 0) = false := Bool.eq_false_iff.2 fun h0 => h ((beq_zero_iff_toNat o.r).1 h0)
  simp only [ccrArithX, hz, Bool.false_and]

/-! ### The statements -/

/-- Settles O19: each code names its condition, and each condition's test is its row of the table. -/
theorem conditions : Obligations.Conditions := by
  intro f
  exact ⟨rfl, Bool.false_ne_true, condHolds_hi f, condHolds_ls f, condHolds_cc f, condHolds_cs f, condHolds_ne f,
    condHolds_eq f, condHolds_vc f, condHolds_vs f, condHolds_pl f, condHolds_mi f, condHolds_ge f, condHolds_lt f,
    condHolds_gt f, condHolds_le f⟩

/-- Settles O20: the results, carries and overflows of `addF` and `subF`, then the flags of each group, whose N is the
top bit of a result below 2 to the width. -/
theorem addSubFlags : Obligations.AddSubFlags := by
  constructor
  · intro sz a b x ha hb
    exact ⟨by exact_mod_cast addF_r_toNat sz a b x, addF_c_iff sz a b x, addF_v_iff x ha hb,
      subF_r_toNat sz a b x, subF_c_iff sz a b x, subF_v_iff x ha hb⟩
  · intro sz o old ho
    have hn := msb_iff (toNat_lt_of_trunc_eq ho)
    have hz := beq_zero_iff_toNat o.r
    exact ⟨⟨rfl, hn, hz, rfl, rfl⟩,
      ⟨rfl, hn, ccrArithX_z_of_zero sz old, ccrArithX_z_of_nonzero sz old, rfl, rfl⟩,
      ⟨rfl, hn, hz, rfl, rfl⟩, ⟨rfl, hn, hz, rfl, rfl⟩⟩

end Sys2Proof.Machine
end

section
/-! SUPPORT. The family State, the decoder: every instruction it answers is well-formed, so that `exec_keeps` speaks of
every instruction a step runs (R117, R118). -/
namespace Sys2Proof.Machine

/-- The instruction a decoding line answers, where it answers one, is well-formed. -/
def AnswersWf (o : Option Instr) : Prop := ∀ i, o = some i → i.wf = true

theorem AnswersWf.none : AnswersWf none := fun _ h => nomatch h

theorem AnswersWf.some {i : Instr} (h : i.wf = true) : AnswersWf (some i) := fun _ hi => Option.some.inj hi ▸ h

theorem AnswersWf.ite {c : Prop} [Decidable c] {o o' : Option Instr} (h : AnswersWf o) (h' : AnswersWf o') :
    AnswersWf (if c then o else o') := by
  split
  · exact h
  · exact h'

theorem eaIn_inClass {inClass : Ea → Bool} {w : Nat} {e : Ea} (h : eaIn inClass w = some e) : inClass e = true := by
  unfold eaIn at h
  split at h
  · split at h
    · rename_i hc
      cases h
      exact hc
    · cases h
  · cases h

theorem AnswersWf.withEa {inClass : Ea → Bool} {w : Nat} {mk : Ea → Instr}
    (h : ∀ e, inClass e = true → (mk e).wf = true) : AnswersWf (withEa (eaIn inClass w) mk) := by
  intro i hi
  obtain ⟨e, he, rfl⟩ := Option.map_eq_some_iff.mp hi
  exact h e (eaIn_inClass he)

theorem AnswersWf.withSizeEa {w : Nat} {inClass : Size → Ea → Bool} {mk : Size → Ea → Instr}
    (h : ∀ sz e, inClass sz e = true → (mk sz e).wf = true) : AnswersWf (withSizeEa w inClass mk) := by
  unfold Sys2Proof.withSizeEa
  split
  · exact .withEa (h _)
  · exact .none

theorem sizeIsWL_sizeOfBit (k : Nat) : sizeIsWL (sizeOfBit k) = true := by
  unfold sizeOfBit
  split <;> rfl

/-- The codes of BRA and BSR are the only ones whose condition Bcc does not have (R351). -/
theorem condIsBcc_condOfCode {k : Nat} (h0 : k ≠ 0) (h1 : k ≠ 1) : condIsBcc (condOfCode k) = true := by
  unfold condOfCode
  split
  case h_1 => exact absurd rfl h0
  case h_2 => exact absurd rfl h1
  all_goals rfl

theorem decodeLine0_wf (w : Nat) : AnswersWf (decodeLine0 w) := by
  unfold decodeLine0
  split
  · split
    · exact .some (sizeIsWL_sizeOfBit _)
    · dsimp only
      split <;> exact .withEa fun _ h => h
  · dsimp only
    split
    · exact .ite (.some rfl) (.ite (.some rfl) (.withSizeEa fun _ _ h => h))
    · exact .ite (.some rfl) (.ite (.some rfl) (.withSizeEa fun _ _ h => h))
    · exact .withSizeEa fun _ _ h => h
    · exact .withSizeEa fun _ _ h => h
    · split <;> exact .withEa fun _ h => h
    · exact .ite (.some rfl) (.ite (.some rfl) (.withSizeEa fun _ _ h => h))
    · exact .withSizeEa fun _ _ h => h
    · exact .none

/-- A destination form of MOVE is An only where its mode is 1, which is MOVEA. -/
theorem eaOfModeReg_isData {mode reg : Nat} {e : Ea} (hm : mode ≠ 1) (h : eaOfModeReg mode reg = some e) :
    eaIsData e = true := by
  unfold eaOfModeReg at h
  split at h
  case h_2 => contradiction
  case h_8 =>
    split at h
    · cases h; rfl
    · split at h <;> cases h
      rfl
  all_goals cases h; rfl

theorem decodeMove_wf (w : Nat) : AnswersWf (decodeMove w) := by
  unfold decodeMove
  split
  · exact .none
  · split
    · exact .none
    · rename_i sz _ _ src hsrc
      split
      · split
        · rename_i hsz
          exact .some hsz
        · exact .none
      · rename_i hmode
        split
        · exact .none
        · rename_i dst hdst
          exact .some (Bool.and_eq_true_iff.mpr ⟨eaIn_inClass hsrc, eaOfModeReg_isData hmode hdst⟩)

theorem decodeLine4E_wf (w : Nat) : AnswersWf (decodeLine4E w) := by
  unfold decodeLine4E
  dsimp only
  split
  · split
    case h_7 =>
      split
      case h_8 => exact .none
      all_goals exact .some rfl
    case h_8 => exact .none
    all_goals exact .some rfl
  · exact .withEa fun _ h => h
  · exact .withEa fun _ h => h
  · exact .none

theorem decodeLine4_wf (w : Nat) : AnswersWf (decodeLine4 w) := by
  unfold decodeLine4
  dsimp only
  split
  · split
    · exact .withEa fun _ h => h
    · exact .withEa fun _ h => h
    · exact .none
  · split
    · exact .ite (.withEa fun _ h => h) (.withSizeEa fun _ _ h => h)
    · exact .withSizeEa fun _ _ h => h
    · exact .ite (.withEa fun _ h => h) (.withSizeEa fun _ _ h => h)
    · exact .ite (.withEa fun _ h => h) (.withSizeEa fun _ _ h => h)
    · split
      · exact .withEa fun _ h => h
      · exact .ite (.some rfl) (.withEa fun _ h => h)
      · exact .ite (.some rfl) (.withEa fun _ h => h)
      · exact .ite (.some rfl) (.withEa fun _ h => h)
    · exact .ite (.some rfl) (.ite (.withEa fun _ h => h) (.withSizeEa fun _ _ h => h))
    · split
      · exact .withEa fun _ h => h
      · exact .withEa fun _ h => h
      · exact .none
    · exact decodeLine4E_wf w

theorem decodeLine5_wf (w : Nat) : AnswersWf (decodeLine5 w) :=
  .ite (.ite (.some rfl) (.withEa fun _ h => h)) (.ite (.withSizeEa fun _ _ h => h) (.withSizeEa fun _ _ h => h))

theorem decodeLine6_wf (w : Nat) : AnswersWf (decodeLine6 w) := by
  unfold decodeLine6
  dsimp only
  split
  · exact .some rfl
  · exact .some rfl
  · rename_i h0 h1
    exact .some (condIsBcc_condOfCode h0 h1)

theorem decodeLine7_wf (w : Nat) : AnswersWf (decodeLine7 w) := .ite (.some rfl) .none

theorem decodeLine8_wf (w : Nat) : AnswersWf (decodeLine8 w) :=
  .ite (.ite (.withEa fun _ h => h) (.withEa fun _ h => h))
    (.ite (.withSizeEa fun _ _ h => h) (.ite (.some rfl) (.withSizeEa fun _ _ h => h)))

theorem decodeLineB_wf (w : Nat) : AnswersWf (decodeLineB w) := by
  refine .ite (.ite (.withEa fun _ _ => rfl) (.withEa fun _ _ => rfl))
    (.ite (.withSizeEa fun _ _ h => h) (.ite ?_ (.withSizeEa fun _ _ h => h)))
  split
  · exact .some rfl
  · exact .none

theorem decodeLineC_wf (w : Nat) : AnswersWf (decodeLineC w) := by
  refine .ite (.ite (.withEa fun _ h => h) (.withEa fun _ h => h)) (.ite (.withSizeEa fun _ _ h => h) ?_)
  split
  case h_6 => exact .withSizeEa fun _ _ h => h
  all_goals exact .some rfl

theorem decodeLineE_wf (w : Nat) : AnswersWf (decodeLineE w) := by
  unfold decodeLineE
  dsimp only
  split
  · split
    case h_9 => exact .none
    all_goals exact .withEa fun _ h => h
  · split
    · exact .none
    · split <;> exact .some rfl

/-- Lines 9 and D, given what their constructors accept. -/
theorem decodeAddSub_wf {w : Nat} {eaDn : Size → Ea → Fin 8 → Instr} {dnEa : Size → Fin 8 → Ea → Instr}
    {aW aL : Ea → Fin 8 → Instr} {xForm : Size → PairForm → Fin 8 → Fin 8 → Instr}
    (h1 : ∀ sz e n, eaIsAll sz e = true → (eaDn sz e n).wf = true)
    (h2 : ∀ sz n e, eaIsMem e = true → (dnEa sz n e).wf = true) (h3 : ∀ e n, (aW e n).wf = true)
    (h4 : ∀ e n, (aL e n).wf = true) (h5 : ∀ sz f x y, (xForm sz f x y).wf = true) :
    AnswersWf (decodeAddSub w eaDn dnEa aW aL xForm) := by
  refine .ite (.ite (.withEa fun e _ => h3 e _) (.withEa fun e _ => h4 e _))
    (.ite (.withSizeEa fun sz e => h1 sz e _) (.ite ?_ (.withSizeEa fun sz e => h2 sz _ e)))
  split
  · exact .some (h5 _ _ _ _)
  · exact .none

theorem decodeWord_wf (w : Nat) : AnswersWf (decodeWord w) := by
  unfold decodeWord
  split
  · exact decodeLine0_wf w
  · exact decodeMove_wf w
  · exact decodeMove_wf w
  · exact decodeMove_wf w
  · exact decodeLine4_wf w
  · exact decodeLine5_wf w
  · exact decodeLine6_wf w
  · exact decodeLine7_wf w
  · exact decodeLine8_wf w
  · exact decodeAddSub_wf (fun _ _ _ h => h) (fun _ _ _ h => h) (fun _ _ => rfl) (fun _ _ => rfl) (fun _ _ _ _ => rfl)
  · exact decodeLineB_wf w
  · exact decodeLineC_wf w
  · exact decodeAddSub_wf (fun _ _ _ h => h) (fun _ _ _ h => h) (fun _ _ => rfl) (fun _ _ => rfl) (fun _ _ _ _ => rfl)
  · exact decodeLineE_wf w
  · exact .none

/-- The decoder answers well-formed instructions only (R117, R118). -/
theorem decodeOp_wf {w : Half} {i : Instr} (h : decodeOp w = .ok i) : i.wf = true := by
  unfold decodeOp at h
  split at h
  · rename_i hi
    cases h
    exact decodeWord_wf _ _ hi
  · cases h

end Sys2Proof.Machine
end

section
/-! SUPPORT. The family State, the invariants of a run: a property of memory, pc, the pending vector and the parameters
that every kind of update of those keeps is kept by every step; the proofs of StepKeepsInv, StepKeepsVectors and ResetInv
put the two invariants into it. -/
namespace Sys2Proof.Machine

variable {P : State → Prop}

/-! ### What every step keeps, said once -/

/-- P speaks of memory, pc, the pending vector and the parameters alone, and is kept by each way a step changes them: pc
stays even where it was, a store is one that goes through, and a vector recorded is one the core raises (R401). -/
structure UpdatesKeep (P : State → Prop) : Prop where
  congr : ∀ s t, t.mem = s.mem → t.pc = s.pc → t.pendVec = s.pendVec → t.config = s.config → P s → P t
  pc    : ∀ a s, (isOdd s.pc = false → isOdd a = false) → P s → P (s.setPc a)
  store : ∀ sz a v s, writable s.config sz a = true → P s → P (s.afterStore sz a v)
  vec   : ∀ v s, v ∈ pendable s.config → P s → P (s.setPendVec v)

/-- From s to t the parameters are the same and P, where it held, still holds. -/
structure Preserves (P : State → Prop) (s t : State) : Prop where
  config : t.config = s.config
  holds  : P s → P t

theorem Preserves.trans {s t u : State} (h : Preserves P s t) (h' : Preserves P t u) : Preserves P s u :=
  ⟨h'.config.trans h.config, h'.holds ∘ h.holds⟩

/-- An update of fields P does not speak of. -/
theorem UpdatesKeep.other (hP : UpdatesKeep P) {s t : State} (hm : t.mem = s.mem) (hpc : t.pc = s.pc)
    (hv : t.pendVec = s.pendVec) (hc : t.config = s.config) : Preserves P s t := ⟨hc, hP.congr s t hm hpc hv hc⟩

theorem UpdatesKeep.raise (hP : UpdatesKeep P) {v : BitVec 8} {s : State} (hv : v ∈ pendable s.config) :
    Preserves P s (afterRaise v s) :=
  Preserves.trans (t := s.setPendVec v) ⟨rfl, hP.vec v s hv⟩
    (hP.other (State.signal_mem _) (State.signal_pc _) (State.signal_pendVec _) (State.signal_config _))

theorem UpdatesKeep.rewind (hP : UpdatesKeep P) (s : State) : Preserves P s s.rewindPc :=
  ⟨rfl, hP.pc _ s fun h => (isOdd_sub_two s.pc).trans h⟩

theorem addressError_pendable (c : Config) : 3 ∈ pendable c := by simp [pendable]

theorem UpdatesKeep.stable (hP : UpdatesKeep P) : Stable (Preserves P) (Preserves P) where
  refl _        := ⟨rfl, id⟩
  trans _ _ _   := .trans
  before _ _ _  := .trans
  config _ _ h  := h.config
  load _ _ s _  := hP.other (s.afterLoad_mem ..) (s.afterLoad_pc ..) (s.afterLoad_pendVec ..) (s.afterLoad_config ..)
  pc a s h      := ⟨rfl, hP.pc a s h⟩
  addrErr _ _ _ s :=
    Preserves.trans (t := s.setPendVec 3) ⟨rfl, hP.vec 3 s (addressError_pendable s.config)⟩
      (hP.other (State.signal_mem _) (State.signal_pc _) (State.signal_pendVec _) (State.signal_config _))

/-- The vectors of R401 are among those that can be pending. -/
theorem raisesVector_pendable {i : Instr} {v : BitVec 8} (c : Config) (h : v ∈ raisesVector i) : v ∈ pendable c := by
  unfold raisesVector at h
  split at h
  case h_5 k =>
    exact List.mem_append_right _ (List.mem_map.mpr ⟨k.val, List.mem_range.mpr k.isLt, (List.mem_singleton.mp h).symm⟩)
  case h_7 =>
    split at h
    · simp [pendable, List.mem_singleton.mp h]
    · cases h
  all_goals simp [pendable, List.mem_singleton.mp h]

theorem illegalVector_pendable (c : Config) (e : DecodeError) : illegalVector c e ∈ pendable c := by
  cases e <;> simp [illegalVector, pendable]

/-- Every update an instruction's rule may make keeps P. -/
theorem UpdatesKeep.allows (hP : UpdatesKeep P) (i : Instr) (s : State) : Allows i s (Preserves P) (Preserves P) where
  stable           := hP.stable
  dreg _ _ _ _     := hP.other rfl rfl rfl rfl
  areg _ _ _ _     := hP.other rfl rfl rfl rfl
  store sz a v u _ _ hw := ⟨u.afterStore_config .., hP.store sz a v u hw⟩
  flags _ _ _      := hP.other rfl rfl rfl rfl
  sr _ v u         := hP.other (u.putSr_mem v) (u.putSr_pc v) (u.putSr_pendVec v) (u.putSr_config v)
  raise _ hv u     := hP.raise (raisesVector_pendable u.config hv)
  usp _ _ _        := hP.other rfl rfl rfl rfl
  halt _ _         := hP.other rfl rfl rfl rfl
  drawn _ _ _      := hP.other rfl rfl rfl rfl

theorem UpdatesKeep.fetchOpcode (hP : UpdatesKeep P) : Keeps (Preserves P) (Preserves P) fetchOpcode :=
  keeps_fetchOpcode hP.stable
    (fun s => by rw [State.latchTrace_eq]; split <;> exact hP.other rfl rfl rfl rfl)
    (fun _ _ => hP.other rfl rfl rfl rfl)

theorem UpdatesKeep.execOne (hP : UpdatesKeep P) {s t : State} (h : execOne s = .next t) : Preserves P s t := by
  refine execOne_keeps h (hP.fetchOpcode s) (fun i u hf hd hx => ?_) (fun e hf => ?_)
  · exact hf.trans ((exec_keeps (decodeOp_wf hd) (hP.allows i _) hx).elim id id)
  · exact hf.trans ((hP.rewind _).trans (hP.raise (illegalVector_pendable _ e)))

theorem UpdatesKeep.deliverAs (hP : UpdatesKeep P) {v : BitVec 8} {l : Option (BitVec 3)} {s t : State}
    (h : deliverAs v l s = .next t) : Preserves P s t := by
  have hk : KeepsAt (Preserves P) (Preserves P) (deliver v l) s :=
    keeps_deliver hP.stable (fun _ _ => hP.other rfl rfl rfl rfl)
      (fun l u => hP.other (u.enterHandler_mem l) (u.enterHandler_pc l) (u.enterHandler_pendVec l)
        (u.enterHandler_config l))
      (fun sz a w u hw => ⟨u.afterStore_config .., hP.store sz a w u hw⟩) v l s
  rcases deliverAs_next h with ho | ⟨hr, -⟩
  · exact hk.1 _ _ ho
  · exact hk.2 _ hr

/-- A property that every update keeps is kept by every step, and no step changes a parameter (R43, R184). -/
theorem UpdatesKeep.step (hP : UpdatesKeep P) {s t : State} (h : step s = .next t) : Preserves P s t := by
  rcases step_next h with ⟨-, hd⟩ | ⟨-, hd⟩ | ⟨-, hd⟩ | ⟨-, rfl⟩ | ⟨-, hx⟩
  · exact Preserves.trans (t := s.setPendVec 0) ⟨rfl, hP.vec 0 s (by simp [pendable])⟩ (hP.deliverAs hd)
  · exact (hP.other (s := s) (t := s.setTracePend false) rfl rfl rfl rfl).trans (hP.deliverAs hd)
  · exact (hP.other (s := s) (t := s.setIpl 0) rfl rfl rfl rfl).trans (hP.deliverAs hd)
  · exact hP.stable.refl t
  · exact hP.execOne hx

/-! ### The invariant of memory and pc (R25, R27, R75) -/

/-- Every byte of an access that goes through is in the region of its first. -/
theorem oneRegion_regionAt {c : Config} {am n k : Nat} (h : oneRegion c am n = true) (hk : k < n) :
    regionAt c (am + k) = regionAt c am := by
  simp only [oneRegion, Bool.and_eq_true, List.all_eq_true, List.mem_range, decide_eq_true_eq] at h
  exact h.2 k hk

/-- A store whose bytes are in RAM keeps memory canonical and in RAM. -/
theorem Inv.store {s : State} {sz : Size} {a v : Word} (h : Inv s) (hr : regionAt s.config (busAddr s.config a) = .ram)
    (h1 : oneRegion s.config (busAddr s.config a) (sizeBytes sz) = true) :
    Inv (s.setMem (Memory.store s.mem sz (busAddr s.config a) v)) := by
  obtain ⟨hwf, hram, hpc⟩ := h
  refine ⟨Memory.store_wf sz _ v hwf, fun c hc => ?_, hpc⟩
  rcases Memory.store_keys hc with ⟨k, hk, hck⟩ | hc
  · rw [hck]
    exact (oneRegion_regionAt h1 hk).trans hr
  · exact hram c hc

theorem Inv.congr {s t : State} (hm : t.mem = s.mem) (hpc : t.pc = s.pc) (hc : t.config = s.config) (h : Inv s) :
    Inv t := by
  unfold Inv
  rw [hm, hpc, hc]
  exact h

theorem Inv.afterStore {s : State} {sz : Size} {a v : Word} (hw : writable s.config sz a = true) (h : Inv s) :
    Inv (s.afterStore sz a v) := by
  have h1 := (readable_iff.mp (writable_iff.mp hw).1).2
  cases hr : regionAt s.config (busAddr s.config a) with
  | ram =>
    simp only [State.afterStore, hr]
    exact h.store hr h1
  | hole =>
    simp only [State.afterStore, hr]
    exact h
  | window =>
    simp only [State.afterStore, hr]
    exact h.congr (s.deviceEvent_mem _) (s.deviceEvent_pc _) (s.deviceEvent_config _)

theorem inv_updatesKeep : UpdatesKeep Inv where
  congr _ _ hm hpc _ hc h := h.congr hm hpc hc
  pc _ _ hp := fun ⟨hwf, hram, hpc⟩ => ⟨hwf, hram, hp hpc⟩
  store _ _ _ _ hw h := h.afterStore hw
  vec _ _ _ h := h

/-! ### The invariant of the pending vector (R34, R400, R401) -/

theorem pendable_updatesKeep : UpdatesKeep (fun s => s.pendVec ∈ pendable s.config) where
  congr _ _ _ _ hv hc h := by rw [hv, hc]; exact h
  pc _ _ _ h := h
  store sz a v s _ h := by rw [State.afterStore_pendVec, State.afterStore_config]; exact h
  vec _ _ hv _ := hv

/-! ### The statements -/

/-- Settles O57: the invariant is kept by every kind of update, so by every step. -/
theorem stepKeepsInv : Obligations.StepKeepsInv := by
  intro s t hs h
  obtain ⟨hc, hi⟩ := inv_updatesKeep.step h
  exact ⟨hi hs, hc⟩

/-- Settles O58: every vector that an update records is one the core raises, so every step leaves one. -/
theorem stepKeepsVectors : Obligations.StepKeepsVectors := by
  intro s t hs h
  obtain ⟨-, hv⟩ := pendable_updatesKeep.step h
  exact hv hs

/-- Settles O56: at reset memory lists nothing, pc is 0 and no vector is pending. -/
theorem resetInv : Obligations.ResetInv :=
  ⟨⟨Memory.nil_wf, by simp [State.reset], rfl⟩, rfl, by simp [pendable, State.reset]⟩

end Sys2Proof.Machine
end

section
/-! SUPPORT. The family State, the status register: the bits GetSR reads, and what the stack-pointer swap of SetSR writes;
the proofs of StatusRegister and ModeSwap. -/
namespace Sys2Proof.Machine

variable (s : State) (v : Half)

/-! ### The bits of SR (R30 to R32) -/

theorem State.getSr_imask : s.getSr.extractLsb' 8 3 = s.imask := by
  refine BitVec.eq_of_getLsbD_eq fun k hk => ?_
  rw [BitVec.getLsbD_extractLsb', State.getSr_bit s (8 + k) (by omega)]
  interval_cases k <;> rfl

/-- The bits 14, 12, 11, 7, 6, 5 read as 0. -/
theorem State.getSr_reserved : s.getSr &&& 0x58E0#16 = 0 := by
  refine BitVec.eq_of_getLsbD_eq fun k hk => ?_
  rw [BitVec.getLsbD_and, State.getSr_bit s k hk]
  interval_cases k <;> simp

/-- GetSR after SetSR: the bits written, those that are discarded cleared. -/
theorem State.getSr_putSr : (s.putSr v).getSr = v &&& 0xA71F#16 := by
  refine BitVec.eq_of_getLsbD_eq fun k hk => ?_
  rw [BitVec.getLsbD_and, State.getSr_bit _ k hk]
  interval_cases k <;> simp [ccrOf]

/-- GetSR after SetCCR: the upper byte of the old value, the flags of the one written. -/
theorem State.getSr_putCcr : (s.putCcr v).getSr = (s.getSr &&& 0xA700#16) ||| (v &&& 0x001F#16) := by
  refine BitVec.eq_of_getLsbD_eq fun k hk => ?_
  rw [BitVec.getLsbD_or, BitVec.getLsbD_and, BitVec.getLsbD_and, State.getSr_bit _ k hk, State.getSr_bit s k hk]
  interval_cases k <;> simp [ccrOf]

/-! ### The stack-pointer swap (R31) -/

variable (b : Bool)

theorem State.switchMode_ssp :
    (s.switchMode b).ssp = if b ≠ s.sup ∧ s.sup = true then s.areg 7 else s.ssp := by
  by_cases h : b = s.sup
  · simp [State.switchMode, h]
  · cases hs : s.sup <;> simp_all [State.switchMode]

theorem State.switchMode_usp :
    (s.switchMode b).usp = if b ≠ s.sup ∧ s.sup = false then s.areg 7 else s.usp := by
  by_cases h : b = s.sup
  · simp [State.switchMode, h]
  · cases hs : s.sup <;> simp_all [State.switchMode]

theorem State.switchMode_areg_seven :
    (s.switchMode b).areg 7 = if b = s.sup then s.areg 7 else if s.sup then s.usp else s.ssp := by
  by_cases h : b = s.sup
  · simp [State.switchMode, h]
  · cases hs : s.sup <;> simp_all [State.switchMode]

variable {s v}

theorem putSr_sameMode (h : v.getLsbD 13 = s.sup) :
    (s.putSr v).a = s.a ∧ (s.putSr v).usp = s.usp ∧ (s.putSr v).ssp = s.ssp := by
  simp only [State.putSr_a, State.putSr_usp, State.putSr_ssp, State.switchMode_same s h, and_self]

theorem putSr_toUser (hs : s.sup = true) (hv : v.getLsbD 13 = false) :
    (s.putSr v).ssp = s.areg 7 ∧ (s.putSr v).areg 7 = s.usp ∧ (s.putSr v).usp = s.usp := by
  simp only [State.putSr_ssp, State.putSr_areg, State.putSr_usp, hv, State.switchMode_toUser s hs]
  simp

theorem putSr_toSupervisor (hs : s.sup = false) (hv : v.getLsbD 13 = true) :
    (s.putSr v).usp = s.areg 7 ∧ (s.putSr v).areg 7 = s.ssp ∧ (s.putSr v).ssp = s.ssp := by
  simp only [State.putSr_ssp, State.putSr_areg, State.putSr_usp, hv, State.switchMode_toSupervisor s hs]
  simp

theorem putSr_areg_other {n : Fin 8} (h : n ≠ 7) : (s.putSr v).areg n = s.areg n := s.switchMode_areg_other h

/-- A7 after S has been changed and changed back: it waited in the shadow of its own mode. -/
theorem putSr_putSr_areg_seven {w : Half} (hv : v.getLsbD 13 ≠ s.sup) (hw : w.getLsbD 13 = s.sup) :
    ((s.putSr v).putSr w).areg 7 = s.areg 7 := by
  cases hs : s.sup with
  | true =>
    have hv' : v.getLsbD 13 = false := by simpa [hs] using hv
    obtain ⟨hssp, -, -⟩ := putSr_toUser hs hv'
    obtain ⟨-, ha, -⟩ := putSr_toSupervisor (s := s.putSr v) ((s.putSr_sup v).trans hv') (hw.trans hs)
    exact ha.trans hssp
  | false =>
    have hv' : v.getLsbD 13 = true := by simpa [hs] using hv
    obtain ⟨husp, -, -⟩ := putSr_toSupervisor hs hv'
    obtain ⟨-, ha, -⟩ := putSr_toUser (s := s.putSr v) ((s.putSr_sup v).trans hv') (hw.trans hs)
    exact ha.trans husp

/-! ### The statements -/

/-- Settles O17: each field stands at its bits, SetSR writes all of them and swaps the stack pointers, SetCCR writes the
flags alone. -/
theorem statusRegister : Obligations.StatusRegister := by
  intro s v
  refine ⟨⟨?_, ?_, s.getSr_imask, ?_, ?_, ?_, ?_, ?_, s.getSr_reserved⟩, ⟨s.putSr_t v, s.putSr_sup v, s.putSr_imask v,
    s.getSr_putSr v, s.switchMode_ssp _, s.switchMode_usp _, s.switchMode_areg_seven _⟩,
    rfl, rfl, rfl, rfl, rfl, rfl, s.getSr_putCcr v⟩
  all_goals exact s.getSr_bit _ (by decide)

/-- Settles O18: one clause for each of the cases of the swap, then the way there and back, for A7 and for the others. -/
theorem modeSwap : Obligations.ModeSwap := by
  intro s v w
  refine ⟨putSr_sameMode, putSr_toUser, putSr_toSupervisor, fun n => putSr_areg_other, fun hv hw n => ?_⟩
  by_cases hn : n = 7
  · subst hn
    exact putSr_putSr_areg_seven hv hw
  · rw [putSr_areg_other hn, putSr_areg_other hn]

end Sys2Proof.Machine
end

section
/-! SUPPORT. The family State, the faults of accesses: where a read, a write, a fetch or a jump stops, and how; the proof
of AccessFaults. -/
namespace Sys2Proof.Machine

variable {sz : Size} {a v : Word} {s : State}

/-! ### Data accesses that stop (R66, R68, R79, U3, U6) -/

theorem memRead_misaligned_refused (h : aligned sz a = false) (hf : s.config.dataAlignFault = false) :
    memRead sz a s = .error (.refusal .misalignedData) s := by
  simp [memRead, h, hf, refuse]

theorem memWrite_misaligned_refused (h : aligned sz a = false) (hf : s.config.dataAlignFault = false) :
    memWrite sz a v s = .error (.refusal .misalignedData) s := by
  simp [memWrite, h, hf, refuse]

theorem memWrite_guarded (h : aligned sz a = true) (hg : guardFree s.config (busAddr s.config a) = false) :
    memWrite sz a v s = .error (.fault .fatalHostError) s := by
  simp [memWrite, h, hg, failWith]

theorem memRead_straddle (h : aligned sz a = true)
    (h1 : oneRegion s.config (busAddr s.config a) (sizeBytes sz) = false) :
    memRead sz a s = .error (.refusal .regionStraddle) s := by
  simp [memRead, h, h1, refuse]

theorem memWrite_straddle (h : aligned sz a = true)
    (h1 : oneRegion s.config (busAddr s.config a) (sizeBytes sz) = false)
    (hg : guardFree s.config (busAddr s.config a) = true) :
    memWrite sz a v s = .error (.refusal .regionStraddle) s := by
  simp [memWrite, h, h1, hg, refuse]

/-- A byte is aligned anywhere, and only a misaligned access raises. -/
theorem memRead_byte_not_raised (t : State) : memRead .b a s ≠ .error .raised t := by
  intro h
  rcases memRead_cases .b a s with ⟨-, h'⟩ | ⟨hal, -⟩ | ⟨r, h'⟩
  · rw [h'] at h; cases h
  · cases hal
  · rw [h'] at h; cases h

theorem memWrite_byte_not_raised (t : State) : memWrite .b a v s ≠ .error .raised t := by
  intro h
  rcases memWrite_cases .b a v s with ⟨-, h'⟩ | ⟨hal, -⟩ | ⟨r, h'⟩ | h'
  · rw [h'] at h; cases h
  · cases hal
  · rw [h'] at h; cases h
  · rw [h'] at h; cases h

/-! ### Fetches that stop (R67, U6, U7) -/

theorem memFetch_odd (h : isOdd a = true) :
    memFetch a s = .error .raised (afterAddressError a .read .instruction s) := by
  simp [memFetch, h, raiseAddress_apply]

theorem memFetch_straddle (h : isOdd a = false) (h1 : oneRegion s.config (busAddr s.config a) 2 = false) :
    memFetch a s = .error (.refusal .regionStraddle) s := by
  simp [memFetch, h, h1, refuse]

theorem memFetch_window (h : isOdd a = false) (h1 : oneRegion s.config (busAddr s.config a) 2 = true)
    (hw : regionAt s.config (busAddr s.config a) = .window) :
    memFetch a s = .error (.refusal .fetchFromWindow) s := by
  simp [memFetch, h, h1, hw, refuse]

/-! ### The statement -/

/-- Settles O24: one lemma for each way an access, a fetch or a jump stops. -/
theorem accessFaults : Obligations.AccessFaults := by
  intro sz a v s
  exact ⟨fun h hf => ⟨memRead_misaligned h hf, memWrite_misaligned h hf⟩,
    fun h hf => ⟨memRead_misaligned_refused h hf, memWrite_misaligned_refused h hf⟩,
    fun t => ⟨memRead_byte_not_raised t, memWrite_byte_not_raised t⟩,
    memWrite_guarded,
    fun h h1 => ⟨memRead_straddle h h1, memWrite_straddle h h1⟩,
    fun h => ⟨memFetch_odd h, loadPc_odd h⟩,
    loadPc_even, memFetch_straddle, memFetch_window⟩

end Sys2Proof.Machine
end

section
/-! SUPPORT. The family State, the frames of an instruction: the registers, and the status bits its rule does not name are
unchanged. Each frame is a relation put into `exec_keeps`; the proofs of FrameRegisters and FrameStatus. -/
namespace Sys2Proof.Machine

/-! ### Data and address registers (R29, R155) -/

/-- From s to t only data registers of D and address registers of A have changed. -/
structure RegsKept (D A : List (Fin 8)) (s t : State) : Prop where
  config : t.config = s.config
  dreg   : ∀ n, n ∉ D → t.dreg n = s.dreg n
  areg   : ∀ n, n ∉ A → t.areg n = s.areg n

section
variable {D A : List (Fin 8)} {s t u : State}

/-- An update that writes no register. -/
theorem RegsKept.of_eq (hd : t.d = s.d) (ha : t.a = s.a) (hc : t.config = s.config) : RegsKept D A s t :=
  ⟨hc, fun n _ => congrArg (·.get n) hd, fun n _ => congrArg (·.get n) ha⟩

theorem RegsKept.trans (h : RegsKept D A s t) (h' : RegsKept D A t u) : RegsKept D A s u :=
  ⟨h'.config.trans h.config, fun n hn => (h'.dreg n hn).trans (h.dreg n hn),
    fun n hn => (h'.areg n hn).trans (h.areg n hn)⟩

theorem RegsKept.setD {n : Fin 8} (hn : n ∈ D) (v : Word) : RegsKept D A s (s.setD n v) :=
  ⟨rfl, fun _ hm => s.setD_dreg_other v fun h => hm (h ▸ hn), fun _ _ => rfl⟩

theorem RegsKept.setA {n : Fin 8} (hn : n ∈ A) (v : Word) : RegsKept D A s (s.setA n v) :=
  ⟨rfl, fun _ _ => rfl, fun _ hm => s.setA_areg_other v fun h => hm (h ▸ hn)⟩

/-- SetSR writes no register but A7. -/
theorem RegsKept.putSr (h7 : 7 ∈ A) (v : Half) : RegsKept D A s (s.putSr v) :=
  ⟨s.putSr_config v, fun n _ => s.putSr_dreg v n, fun _ hm => putSr_areg_other fun h => hm (h ▸ h7)⟩

theorem RegsKept.raise (v : BitVec 8) : RegsKept D A s (afterRaise v s) :=
  .of_eq (State.signal_d _) (State.signal_a _) (State.signal_config _)

end

theorem regsKept_stable (D A : List (Fin 8)) : Stable (RegsKept D A) (RegsKept D A) where
  refl _          := .of_eq rfl rfl rfl
  trans _ _ _     := .trans
  before _ _ _    := .trans
  config _ _ h    := h.config
  load _ _ s _    := .of_eq (s.afterLoad_d ..) (s.afterLoad_a ..) (s.afterLoad_config ..)
  pc _ _ _        := .of_eq rfl rfl rfl
  addrErr _ _ _ _ := .of_eq (State.signal_d _) (State.signal_a _) (State.signal_config _)

theorem seven_mem_writesA {i : Instr} (h : writesSr i = true) (s : State) : 7 ∈ writesA i s := by
  unfold writesSr at h
  split at h
  case h_7 => cases h
  all_goals simp [writesA]

theorem regsKept_allows (i : Instr) (s : State) :
    Allows i s (RegsKept (writesD i s) (writesA i s)) (RegsKept (writesD i s) (writesA i s)) where
  stable            := regsKept_stable _ _
  dreg _ hn v _     := .setD hn v
  areg _ hn v _     := .setA hn v
  store _ _ _ u _ _ _ := .of_eq (u.afterStore_d ..) (u.afterStore_a ..) (u.afterStore_config ..)
  flags _ _ _       := .of_eq rfl rfl rfl
  sr h v _          := .putSr (seven_mem_writesA h s) v
  raise v _ _       := .raise v
  usp _ _ _         := .of_eq rfl rfl rfl
  halt _ _          := .of_eq rfl rfl rfl
  drawn _ _ _       := .of_eq rfl rfl rfl

/-! ### The status bits (R29, R241, R290, R330, R434) -/

theorem FlagsOk.refl (i : Instr) (f : Ccr) : FlagsOk i f f :=
  ⟨fun _ => rfl, fun _ => rfl, fun _ => ⟨rfl, rfl, rfl, rfl⟩⟩

theorem FlagsOk.trans {i : Instr} {f g k : Ccr} (h : FlagsOk i f g) (h' : FlagsOk i g k) : FlagsOk i f k := by
  obtain ⟨hno, hx, hz⟩ := h
  obtain ⟨hno', hx', hz'⟩ := h'
  refine ⟨fun hi => (hno' hi).trans (hno hi), fun hi => (hx' hi).trans (hx hi), fun hi => ?_⟩
  obtain ⟨zx, zn, zv, zc⟩ := hz hi
  obtain ⟨zx', zn', zv', zc'⟩ := hz' hi
  exact ⟨zx'.trans zx, zn'.trans zn, zv'.trans zv, zc'.trans zc⟩

/-- The writers of SR write all five flags. -/
theorem flagsOk_of_writesSr {i : Instr} (h : writesSr i = true) (old new : Ccr) : FlagsOk i old new := by
  unfold writesSr at h
  split at h
  case h_7 => cases h
  all_goals simp [FlagsOk, writesNoFlag, keepsX, writesZOnly]

/-- From s to t the flags changed as instruction i may change them, and T, S, I only where i writes SR. -/
structure StatusKept (i : Instr) (s t : State) : Prop where
  config : t.config = s.config
  flags  : FlagsOk i s.ccr t.ccr
  status : writesSr i = false → t.t = s.t ∧ t.sup = s.sup ∧ t.imask = s.imask

section
variable {i : Instr} {s t u : State}

/-- An update that writes no status bit. -/
theorem StatusKept.of_eq (ht : t.t = s.t) (hs : t.sup = s.sup) (hi : t.imask = s.imask) (hf : t.ccr = s.ccr)
    (hc : t.config = s.config) : StatusKept i s t := ⟨hc, hf ▸ .refl i _, fun _ => ⟨ht, hs, hi⟩⟩

theorem StatusKept.trans (h : StatusKept i s t) (h' : StatusKept i t u) : StatusKept i s u := by
  refine ⟨h'.config.trans h.config, h.flags.trans h'.flags, fun hi => ?_⟩
  obtain ⟨ht, hs, hm⟩ := h.status hi
  obtain ⟨ht', hs', hm'⟩ := h'.status hi
  exact ⟨ht'.trans ht, hs'.trans hs, hm'.trans hm⟩

theorem StatusKept.putSr (h : writesSr i = true) (v : Half) : StatusKept i s (s.putSr v) :=
  ⟨s.putSr_config v, flagsOk_of_writesSr h _ _, fun hn => absurd (h.symm.trans hn) Bool.noConfusion⟩

theorem StatusKept.raise (v : BitVec 8) : StatusKept i s (afterRaise v s) :=
  .of_eq (State.signal_t _) (State.signal_sup _) (State.signal_imask _) (State.signal_ccr _) (State.signal_config _)

end

theorem statusKept_stable (i : Instr) : Stable (StatusKept i) (StatusKept i) where
  refl _          := .of_eq rfl rfl rfl rfl rfl
  trans _ _ _     := .trans
  before _ _ _    := .trans
  config _ _ h    := h.config
  load _ _ s _    := .of_eq (s.afterLoad_t ..) (s.afterLoad_sup ..) (s.afterLoad_imask ..) (s.afterLoad_ccr ..)
    (s.afterLoad_config ..)
  pc _ _ _        := .of_eq rfl rfl rfl rfl rfl
  addrErr _ _ _ _ := .of_eq (State.signal_t _) (State.signal_sup _) (State.signal_imask _) (State.signal_ccr _)
    (State.signal_config _)

theorem statusKept_allows (i : Instr) (s : State) : Allows i s (StatusKept i) (StatusKept i) where
  stable          := statusKept_stable i
  dreg _ _ _ _    := .of_eq rfl rfl rfl rfl rfl
  areg _ _ _ _    := .of_eq rfl rfl rfl rfl rfl
  store _ _ _ u _ _ _ := .of_eq (u.afterStore_t ..) (u.afterStore_sup ..) (u.afterStore_imask ..)
    (u.afterStore_ccr ..) (u.afterStore_config ..)
  flags _ _ hf    := ⟨rfl, hf, fun _ => ⟨rfl, rfl, rfl⟩⟩
  sr h v _        := .putSr h v
  raise v _ _     := .raise v
  usp _ _ _       := .of_eq rfl rfl rfl rfl rfl
  halt _ _        := .of_eq rfl rfl rfl rfl rfl
  drawn _ _ _     := .of_eq rfl rfl rfl rfl rfl

/-! ### The statements on registers and status -/

/-- Settles O51: `RegsKept` for the registers the instruction's rule writes. -/
theorem frameRegisters : Obligations.FrameRegisters := by
  intro i s t hwf h
  obtain ⟨-, hd, ha⟩ := (exec_keeps hwf (regsKept_allows i s) h).elim id id
  exact ⟨hd, ha⟩

/-- Settles O54: `StatusKept`, whose flag part is what the instruction's rule may do to the flags. -/
theorem frameStatus : Obligations.FrameStatus := by
  intro i s t hwf h
  obtain ⟨-, ⟨hno, hx, hz⟩, hs⟩ := (exec_keeps hwf (statusKept_allows i s) h).elim id id
  exact ⟨hno, hx, hz, hs⟩

end Sys2Proof.Machine
end

section
/-! SUPPORT. The family State, the special registers. The shadow stack pointers need more than `exec_keeps`: a relation
that every order of the updates of a writer of SR keeps cannot say that a shadow changes with the mode alone, since two
mode changes could follow each other. Each of the six writers makes one; that is `exec_shadowsKept`. The proof of
FrameSpecial. -/
namespace Sys2Proof.Machine

/-! ### The shadow stack pointers in the writers of SR (R23, R31) -/

/-- The mode and both shadow stack pointers are as they were. -/
structure StacksSame (s t : State) : Prop where
  config : t.config = s.config
  sup    : t.sup = s.sup
  ssp    : t.ssp = s.ssp
  usp    : t.usp = s.usp

/-- Where the mode is as it was, both shadow stack pointers are. -/
def ShadowsKept (s t : State) : Prop := t.sup = s.sup → t.ssp = s.ssp ∧ t.usp = s.usp

theorem StacksSame.trans {s t u : State} (h : StacksSame s t) (h' : StacksSame t u) : StacksSame s u :=
  ⟨h'.config.trans h.config, h'.sup.trans h.sup, h'.ssp.trans h.ssp, h'.usp.trans h.usp⟩

theorem StacksSame.shadowsKept {s t : State} (h : StacksSame s t) : ShadowsKept s t := fun _ => ⟨h.ssp, h.usp⟩

theorem StacksSame.before {s t u : State} (h : StacksSame s t) (h' : ShadowsKept t u) : ShadowsKept s u := by
  intro hu
  obtain ⟨hssp, husp⟩ := h' (hu.trans h.sup.symm)
  exact ⟨hssp.trans h.ssp, husp.trans h.usp⟩

theorem ShadowsKept.after {s t u : State} (h : ShadowsKept s t) (h' : StacksSame t u) : ShadowsKept s u := by
  intro hu
  obtain ⟨hssp, husp⟩ := h (h'.sup.symm.trans hu)
  exact ⟨h'.ssp.trans hssp, h'.usp.trans husp⟩

theorem ShadowsKept.putSr (s : State) (v : Half) : ShadowsKept s (s.putSr v) := by
  intro h
  obtain ⟨-, husp, hssp⟩ := putSr_sameMode ((s.putSr_sup v).symm.trans h)
  exact ⟨hssp, husp⟩

theorem stacksSame_stable : Stable StacksSame StacksSame where
  refl _          := ⟨rfl, rfl, rfl, rfl⟩
  trans _ _ _     := .trans
  before _ _ _    := .trans
  config _ _ h    := h.config
  load _ _ s _    := ⟨s.afterLoad_config .., s.afterLoad_sup .., s.afterLoad_ssp .., s.afterLoad_usp ..⟩
  pc _ _ _        := ⟨rfl, rfl, rfl, rfl⟩
  addrErr _ _ _ _ := ⟨State.signal_config _, State.signal_sup _, State.signal_ssp _, State.signal_usp _⟩

/-- A part that leaves the stacks alone, then one that may change the mode once. -/
theorem shadowsKept_bind {α : Type} {x : M α} {f : α → M Unit} (hx : Keeps StacksSame StacksSame x)
    (hf : ∀ a, Keeps ShadowsKept ShadowsKept (f a)) : Keeps ShadowsKept ShadowsKept (x >>= f) := by
  intro s
  obtain ⟨hok, hraised⟩ := hx s
  cases h : x s with
  | ok a t =>
    obtain ⟨fok, fraised⟩ := hf a t
    unfold KeepsAt
    rw [M.bind_ok h]
    exact ⟨fun b u hu => (hok a t h).before (fok b u hu), fun u hu => (hok a t h).before (fraised u hu)⟩
  | error e t =>
    unfold KeepsAt
    rw [M.bind_error h]
    refine ⟨fun _ _ hu => (by cases hu), fun u hu => ?_⟩
    cases hu
    exact (hraised t h).shadowsKept

theorem shadowsKept_putSr (v : State → Half) : Keeps ShadowsKept ShadowsKept (modify fun s => s.putSr (v s)) :=
  keeps_modify fun s => .putSr s (v s)

/-- The change of the mode, then a part that leaves the stacks alone. -/
theorem shadowsKept_putSr_bind {v : Half} {m : M Unit} (hm : Keeps StacksSame StacksSame m) :
    Keeps ShadowsKept ShadowsKept ((modify fun s => s.putSr v) >>= fun _ => m) := by
  intro s
  obtain ⟨hok, hraised⟩ := hm (s.putSr v)
  exact ⟨fun b u hu => (ShadowsKept.putSr s v).after (hok b u hu),
    fun u hu => (ShadowsKept.putSr s v).after (hraised u hu)⟩

theorem stacksSame_requireSupervisor : Keeps StacksSame StacksSame requireSupervisor :=
  keeps_requireSupervisor stacksSame_stable fun _ _ =>
    ⟨State.signal_config _, State.signal_sup _, State.signal_ssp _, State.signal_usp _⟩

theorem shadowsKept_logicImmSr (f : Half → Half → Half) : Keeps ShadowsKept ShadowsKept (logicImmSr f) :=
  shadowsKept_bind stacksSame_requireSupervisor fun _ =>
    shadowsKept_bind (keeps_fetchWord stacksSame_stable) fun _ => shadowsKept_putSr _

theorem shadowsKept_rte : Keeps ShadowsKept ShadowsKept returnFromException :=
  keeps_get_bind fun _ => shadowsKept_bind (keeps_memRead stacksSame_stable _ _) fun _ =>
    keeps_get_bind fun _ => shadowsKept_bind (keeps_memRead stacksSame_stable _ _) fun _ =>
      shadowsKept_bind (keeps_modify fun _ => ⟨rfl, rfl, rfl, rfl⟩) fun _ =>
        shadowsKept_putSr_bind (keeps_loadPc stacksSame_stable _)

theorem shadowsKept_of_run {m : M Unit} {s t : State} (hm : Keeps ShadowsKept ShadowsKept m)
    (hr : run m s = .next t) : ShadowsKept s t := (keepsAt_run (hm s) hr).elim id id

/-- Each writer of SR changes the mode at most once, so a shadow stack pointer changes only with it. -/
theorem exec_shadowsKept {i : Instr} {s t : State} (hi : writesSr i = true) (h : exec i s = .next t) :
    ShadowsKept s t := by
  cases i with
  | moveToSr e =>
    exact shadowsKept_of_run (shadowsKept_bind stacksSame_requireSupervisor fun _ =>
      shadowsKept_bind (keeps_readEa stacksSame_stable fun _ _ _ _ => ⟨rfl, rfl, rfl, rfl⟩) fun _ =>
        shadowsKept_putSr _) h
  | andiToSr => exact shadowsKept_of_run (shadowsKept_logicImmSr _) h
  | oriToSr => exact shadowsKept_of_run (shadowsKept_logicImmSr _) h
  | eoriToSr => exact shadowsKept_of_run (shadowsKept_logicImmSr _) h
  | stop =>
    exact shadowsKept_of_run (shadowsKept_bind stacksSame_requireSupervisor fun _ =>
      shadowsKept_bind (keeps_fetchWord stacksSame_stable) fun _ =>
        shadowsKept_putSr_bind (keeps_modify (g := (·.setHalted true)) fun _ => ⟨rfl, rfl, rfl, rfl⟩)) h
  | rte => exact shadowsKept_of_run (shadowsKept_bind stacksSame_requireSupervisor fun _ => shadowsKept_rte) h
  | _ => cases hi

/-! ### The other special registers (R35, R40, R41, R74, R77, R193) -/

/-- The special registers that a device access leaves alone. -/
def special (s : State) : Config × Half × Bool × Bool × Nat × Bool × Word × Word :=
  (s.config, s.ir, s.tracePend, s.halted, s.drawn, s.sup, s.ssp, s.usp)

theorem special_signal (s : State) : special s.signal = special s := by simp [special]

/-- From s to t the special registers changed only as instruction i may change them. -/
structure SpecialKept (i : Instr) (s t : State) : Prop where
  config    : t.config = s.config
  ir        : t.ir = s.ir
  tracePend : t.tracePend = s.tracePend
  halted    : t.halted = s.halted ∨ (i = .stop ∧ t.halted = true)
  device    : DeviceGrows s.config s t
  drawn     : drawsFree i = false → t.drawn = s.drawn
  stackPtrs : writesSr i = false → t.sup = s.sup ∧ t.ssp = s.ssp ∧ (t.usp = s.usp ∨ ∃ n, i = .moveToUsp n)

section
variable {i : Instr} {s t u : State}

/-- An update that changes at most the device's state among the special registers. -/
theorem SpecialKept.of_special (h : special t = special s) (hd : DeviceGrows s.config s t) : SpecialKept i s t := by
  simp only [special, Prod.mk.injEq] at h
  obtain ⟨hc, hir, htp, hh, hdr, hsup, hssp, husp⟩ := h
  exact ⟨hc, hir, htp, .inl hh, hd, fun _ => hdr, fun _ => ⟨hsup, hssp, .inl husp⟩⟩

/-- An update of other fields. -/
theorem SpecialKept.other (h : special t = special s) (hl : t.devLog = s.devLog) (hi : t.ipl = s.ipl) :
    SpecialKept i s t := .of_special h (.of_eq hl hi)

theorem SpecialKept.trans (h : SpecialKept i s t) (h' : SpecialKept i t u) : SpecialKept i s u where
  config    := h'.config.trans h.config
  ir        := h'.ir.trans h.ir
  tracePend := h'.tracePend.trans h.tracePend
  halted    := h'.halted.elim (fun he => h.halted.imp he.trans (And.imp_right he.trans)) .inr
  device    := h.device.trans (h.config ▸ h'.device)
  drawn hi  := (h'.drawn hi).trans (h.drawn hi)
  stackPtrs hi := by
    obtain ⟨hsup, hssp, husp⟩ := h.stackPtrs hi
    obtain ⟨hsup', hssp', husp'⟩ := h'.stackPtrs hi
    exact ⟨hsup'.trans hsup, hssp'.trans hssp, husp'.elim (fun he => husp.imp_left he.trans) .inr⟩

theorem SpecialKept.raise (v : BitVec 8) : SpecialKept i s (afterRaise v s) :=
  .other (special_signal _) (State.signal_devLog _) (State.signal_ipl _)

theorem SpecialKept.store (sz : Size) (a v : Word) : SpecialKept i s (s.afterStore sz a v) :=
  .of_special (by simp [special]) (s.afterStore_deviceGrows sz a v)

theorem SpecialKept.putSr (hi : writesSr i = true) (v : Half) : SpecialKept i s (s.putSr v) :=
  ⟨s.putSr_config v, s.putSr_ir v, s.putSr_tracePend v, .inl (s.putSr_halted v),
    .of_eq (s.putSr_devLog v) (s.putSr_ipl v), fun _ => s.putSr_drawn v,
    fun hn => absurd (hi.symm.trans hn) Bool.noConfusion⟩

theorem SpecialKept.setUsp (hi : ∃ n, i = .moveToUsp n) (v : Word) : SpecialKept i s (s.setUsp v) :=
  ⟨rfl, rfl, rfl, .inl rfl, .of_eq rfl rfl, fun _ => rfl, fun _ => ⟨rfl, rfl, .inr hi⟩⟩

theorem SpecialKept.setHalted (hi : i = .stop) : SpecialKept i s (s.setHalted true) :=
  ⟨rfl, rfl, rfl, .inr ⟨hi, rfl⟩, .of_eq rfl rfl, fun _ => rfl, fun _ => ⟨rfl, rfl, .inl rfl⟩⟩

theorem SpecialKept.setDrawn (hi : drawsFree i = true) (k : Nat) : SpecialKept i s (s.setDrawn k) :=
  ⟨rfl, rfl, rfl, .inl rfl, .of_eq rfl rfl, fun hn => absurd (hi.symm.trans hn) Bool.noConfusion,
    fun _ => ⟨rfl, rfl, .inl rfl⟩⟩

end

theorem specialKept_stable (i : Instr) : Stable (SpecialKept i) (SpecialKept i) where
  refl _          := .other rfl rfl rfl
  trans _ _ _     := .trans
  before _ _ _    := .trans
  config _ _ h    := h.config
  load sz a s _   := .of_special (by simp [special]) (s.afterLoad_deviceGrows sz a)
  pc _ _ _        := .other rfl rfl rfl
  addrErr _ _ _ _ := .other (special_signal _) (State.signal_devLog _) (State.signal_ipl _)

theorem specialKept_allows (i : Instr) (s : State) : Allows i s (SpecialKept i) (SpecialKept i) where
  stable              := specialKept_stable i
  dreg _ _ _ _        := .other rfl rfl rfl
  areg _ _ _ _        := .other rfl rfl rfl
  store sz a v _ _ _ _ := .store sz a v
  flags _ _ _         := .other rfl rfl rfl
  sr h v _            := .putSr h v
  raise v _ _         := .raise v
  usp h v _           := .setUsp h v
  halt h _            := .setHalted h
  drawn h k _         := .setDrawn h k

/-! ### The statement -/

/-- Settles O55: `SpecialKept`, and for the shadow stack pointers of the writers of SR `exec_shadowsKept`. -/
theorem frameSpecial : Obligations.FrameSpecial := by
  intro i s t hwf h
  have hk : SpecialKept i s t := (exec_keeps hwf (specialKept_allows i s) h).elim id id
  refine ⟨hk.ir, hk.tracePend, hk.config, hk.halted, fun hsup => ?_, hk.device, hk.drawn⟩
  cases hi : writesSr i with
  | true =>
    obtain ⟨hssp, husp⟩ := exec_shadowsKept hi h hsup
    exact ⟨hssp, .inl husp⟩
  | false =>
    obtain ⟨-, hssp, husp⟩ := hk.stackPtrs hi
    exact ⟨hssp, husp⟩

end Sys2Proof.Machine
end

section
/-! SUPPORT. The family Memory, the accesses: what a read or a write does in RAM, in the hole and in a device window; the
proofs of StoreThenLoad and AddressMap. -/
namespace Sys2Proof.Machine

variable {sz : Size} {a b v : Word} {s : State}

/-! ### Only the masked address matters (R62) -/

theorem State.loadValue_congr_addr (h : busAddr s.config a = busAddr s.config b) :
    s.loadValue sz a = s.loadValue sz b := by
  simp only [State.loadValue, h]

theorem State.afterLoad_congr_addr (h : busAddr s.config a = busAddr s.config b) :
    s.afterLoad sz a = s.afterLoad sz b := by
  simp only [State.afterLoad, State.loadValue_congr_addr h, h]

theorem State.afterStore_congr_addr (h : busAddr s.config a = busAddr s.config b) :
    s.afterStore sz a v = s.afterStore sz b v := by
  simp only [State.afterStore, h]

theorem memRead_congr_addr (h : busAddr s.config a = busAddr s.config b) (ha : aligned sz a = true)
    (hb : aligned sz b = true) : memRead sz a s = memRead sz b s := by
  simp [memRead, ha, hb, h, State.loadValue_congr_addr h, State.afterLoad_congr_addr h]

theorem memWrite_congr_addr (h : busAddr s.config a = busAddr s.config b) (ha : aligned sz a = true)
    (hb : aligned sz b = true) : memWrite sz a v s = memWrite sz b v s := by
  simp [memWrite, ha, hb, h, State.afterStore_congr_addr h]

/-! ### The hole (R74, R76) -/

theorem regionAt_hole_iff (c : Config) (am : Nat) :
    regionAt c am = .hole ↔ inWindows c am = false ∧ c.ramTop ≤ am := by
  unfold regionAt
  cases inWindows c am with
  | true => simp
  | false => simp

theorem memRead_hole (hr : readable s.config sz a = true) (h : regionAt s.config (busAddr s.config a) = .hole) :
    memRead sz a s = .ok 0 s := by
  rw [memRead_ok hr]
  simp [State.loadValue, State.afterLoad, h]

theorem memWrite_hole (hw : writable s.config sz a = true) (h : regionAt s.config (busAddr s.config a) = .hole) :
    memWrite sz a v s = .ok () s := by
  rw [memWrite_ok hw]
  simp [State.afterStore, h]

/-! ### Device windows and open bus (R77, R78) -/

theorem trunc_trunc (sz : Size) (v : Word) : trunc sz (trunc sz v) = trunc sz v := by
  apply BitVec.eq_of_toNat_eq
  rw [trunc_toNat, trunc_toNat, Nat.mod_mod]

theorem trunc_allOnes (sz : Size) : trunc sz (BitVec.allOnes 32) = BitVec.ofNat 32 (2 ^ sizeBits sz - 1) := by
  cases sz <;> rfl

theorem State.loadValue_window (h : regionAt s.config (busAddr s.config a) = .window) :
    s.loadValue sz a = trunc sz (if handled s.config (busAddr s.config a) then
      Config.deviceRead s.devLog (busAddr s.config a) sz else BitVec.allOnes 32) := by
  simp only [State.loadValue, h]

theorem State.trunc_loadValue_window (h : regionAt s.config (busAddr s.config a) = .window) :
    trunc sz (s.loadValue sz a) = s.loadValue sz a := by
  rw [State.loadValue_window h, trunc_trunc]

/-- Open bus: no handler, all ones of the size. -/
theorem State.loadValue_unhandled (h : regionAt s.config (busAddr s.config a) = .window)
    (hh : handled s.config (busAddr s.config a) = false) :
    s.loadValue sz a = BitVec.ofNat 32 (2 ^ sizeBits sz - 1) := by
  rw [State.loadValue_window h, hh, ← trunc_allOnes]
  rfl

theorem memRead_window (hr : readable s.config sz a = true) (h : regionAt s.config (busAddr s.config a) = .window) :
    memRead sz a s = .ok (s.loadValue sz a)
      (s.deviceEvent { dir := .read, addr := busAddr s.config a, size := sz, value := s.loadValue sz a }) := by
  rw [memRead_ok hr]
  simp [State.afterLoad, h]

theorem memWrite_window (hw : writable s.config sz a = true) (h : regionAt s.config (busAddr s.config a) = .window) :
    memWrite sz a v s = .ok ()
      (s.deviceEvent { dir := .write, addr := busAddr s.config a, size := sz, value := trunc sz v }) := by
  rw [memWrite_ok hw]
  simp [State.afterStore, h]

theorem State.deviceEvent_getSr (s : State) (ev : DevEvent) : (s.deviceEvent ev).getSr = s.getSr :=
  State.getSr_congr (s.deviceEvent_t ev) (s.deviceEvent_sup ev) (s.deviceEvent_imask ev) (s.deviceEvent_ccr ev)

/-- An access handed to the device leaves memory and the core's registers. -/
theorem State.deviceEvent_core (s : State) (ev : DevEvent) :
    (s.deviceEvent ev).mem = s.mem ∧ (s.deviceEvent ev).d = s.d ∧ (s.deviceEvent ev).a = s.a ∧
      (s.deviceEvent ev).pc = s.pc ∧ (s.deviceEvent ev).getSr = s.getSr ∧ (s.deviceEvent ev).usp = s.usp ∧
      (s.deviceEvent ev).ssp = s.ssp ∧ (s.deviceEvent ev).pendVec = s.pendVec :=
  ⟨s.deviceEvent_mem ev, s.deviceEvent_d ev, s.deviceEvent_a ev, s.deviceEvent_pc ev, s.deviceEvent_getSr ev,
    s.deviceEvent_usp ev, s.deviceEvent_ssp ev, s.deviceEvent_pendVec ev⟩

/-! ### The statements on accesses -/

/-- Settles O23: the write is `Memory.store` at the masked address, and the laws of memory cells say the rest. -/
theorem storeThenLoad : Obligations.StoreThenLoad := by
  intro sz a v s hw hram
  obtain ⟨hr, hg⟩ := writable_iff.mp hw
  obtain ⟨ha, -⟩ := readable_iff.mp hr
  have hread := memRead_ram (s := s.setMem (Memory.store s.mem sz (busAddr s.config a) v)) hram ha
  rw [State.setMem_mem, State.setMem_config, Memory.load_store] at hread
  exact ⟨_, memWrite_ram hram ha hg, Memory.get_store_inside s.mem sz _ v, Memory.get_store_outside s.mem sz _ v,
    hread, Memory.store_wf sz _ v⟩

/-- Settles O25: the masked address, then what an access does in the hole and in a window. -/
theorem addressMap : Obligations.AddressMap := by
  refine ⟨fun sz a b v s h ha hb => ⟨memRead_congr_addr h ha hb, memWrite_congr_addr h ha hb⟩, regionAt_hole_iff,
    fun sz a v s hr h => ⟨memRead_hole hr h, fun hg => memWrite_hole (writable_iff.mpr ⟨hr, hg⟩) h⟩,
    fun sz a s hr h => ?_, fun sz a v s hw h => ?_⟩
  · exact ⟨_, _, memRead_window hr h, State.trunc_loadValue_window h, State.loadValue_unhandled h,
      s.deviceEvent_devLog _, s.deviceEvent_core _⟩
  · exact ⟨_, memWrite_window hw h, s.deviceEvent_devLog _, s.deviceEvent_core _⟩

end Sys2Proof.Machine
end

section
/-! SUPPORT. The family Memory, the frames of an instruction: one relation, which bytes may have changed, put into
`exec_keeps`; the proofs of FrameNoStore and FrameStore. -/
namespace Sys2Proof.Machine

/-! ### The bytes of an access (R63) -/

theorem mem_accessBytes {c : Config} {sz : Size} {a : Word} {b : Nat} :
    b ∈ accessBytes c sz a ↔ busAddr c a ≤ b ∧ b < busAddr c a + sizeBytes sz := by
  simp only [accessBytes, List.mem_map, List.mem_range]
  constructor
  · rintro ⟨k, hk, rfl⟩
    omega
  · rintro ⟨hle, hlt⟩
    exact ⟨b - busAddr c a, by omega, by omega⟩

/-- No access is empty: it covers its first byte. -/
theorem busAddr_mem_accessBytes (c : Config) (sz : Size) (a : Word) : busAddr c a ∈ accessBytes c sz a := by
  have hpos : 0 < sizeBytes sz := by cases sz <;> decide
  exact mem_accessBytes.mpr ⟨le_rfl, by omega⟩

/-- A data write leaves every byte outside it, wherever it goes. -/
theorem State.get_afterStore_outside {s : State} {sz : Size} {a v : Word} {b : Nat}
    (hb : b ∉ accessBytes s.config sz a) : Memory.get (s.afterStore sz a v).mem b = Memory.get s.mem b := by
  rw [mem_accessBytes] at hb
  rcases s.afterStore_eq sz a v with h | h | ⟨_, _, _, _, _, h⟩ <;> rw [h]
  · exact Memory.get_store_outside s.mem sz _ v b (by omega)
  · rfl

/-! ### The bytes an instruction may change (R63, R154, R155) -/

/-- From s to t only bytes at addresses of L have changed, and where L is empty memory has not been written. -/
structure BytesKept (L : List Nat) (s t : State) : Prop where
  config : t.config = s.config
  mem    : L = [] → t.mem = s.mem
  byte   : ∀ b, b ∉ L → Memory.get t.mem b = Memory.get s.mem b

section
variable {L : List Nat} {s t u : State}

/-- An update that stores nothing. -/
theorem BytesKept.of_eq (hm : t.mem = s.mem) (hc : t.config = s.config) : BytesKept L s t :=
  ⟨hc, fun _ => hm, fun b _ => congrArg (Memory.get · b) hm⟩

theorem BytesKept.trans (h : BytesKept L s t) (h' : BytesKept L t u) : BytesKept L s u :=
  ⟨h'.config.trans h.config, fun hL => (h'.mem hL).trans (h.mem hL), fun b hb => (h'.byte b hb).trans (h.byte b hb)⟩

/-- A store to bytes of L. Since it covers a byte, L is not empty. -/
theorem BytesKept.store {sz : Size} {a : Word} (hL : ∀ b ∈ accessBytes s.config sz a, b ∈ L) (v : Word) :
    BytesKept L s (s.afterStore sz a v) where
  config    := s.afterStore_config sz a v
  mem hnil  := absurd (hL _ (busAddr_mem_accessBytes s.config sz a)) (hnil ▸ List.not_mem_nil)
  byte b hb := State.get_afterStore_outside fun h => hb (hL b h)

theorem BytesKept.raise (v : BitVec 8) : BytesKept L s (afterRaise v s) :=
  .of_eq (State.signal_mem _) (State.signal_config _)

end

theorem bytesKept_stable (L : List Nat) : Stable (BytesKept L) (BytesKept L) where
  refl _          := .of_eq rfl rfl
  trans _ _ _     := .trans
  before _ _ _    := .trans
  config _ _ h    := h.config
  load _ _ s _    := .of_eq (s.afterLoad_mem ..) (s.afterLoad_config ..)
  pc _ _ _        := .of_eq rfl rfl
  addrErr _ _ _ _ := .of_eq (State.signal_mem _) (State.signal_config _)

theorem bytesKept_allows (i : Instr) (s : State) :
    Allows i s (BytesKept (storesTo i s)) (BytesKept (storesTo i s)) where
  stable                := bytesKept_stable _
  dreg _ _ _ _          := .of_eq rfl rfl
  areg _ _ _ _          := .of_eq rfl rfl
  store _ _ v _ hb hc _ := .store (hc ▸ hb) v
  flags _ _ _           := .of_eq rfl rfl
  sr _ v u              := .of_eq (u.putSr_mem v) (u.putSr_config v)
  raise v _ _           := .raise v
  usp _ _ _             := .of_eq rfl rfl
  halt _ _              := .of_eq rfl rfl
  drawn _ _ _           := .of_eq rfl rfl

theorem exec_bytesKept {i : Instr} {s t : State} (hwf : i.wf = true) (h : exec i s = .next t) :
    BytesKept (storesTo i s) s t := (exec_keeps hwf (bytesKept_allows i s) h).elim id id

/-! ### The statements on frames -/

/-- Settles O52: the store set is empty, so memory is as it was. -/
theorem frameNoStore : Obligations.FrameNoStore :=
  fun _ _ _ hwf hnil h => (exec_bytesKept hwf h).mem hnil

/-- Settles O53: every store of the instruction is to bytes of its store set. -/
theorem frameStore : Obligations.FrameStore :=
  fun _ _ _ hwf h => (exec_bytesKept hwf h).byte

end Sys2Proof.Machine
end

section
/-! SUPPORT. The family Encoding, the fields: what the field readers of the decoder answer and the field writers of the
encoder write undo each other (R102, R103, R14, R108), and `decodeOp` on the bytes of a word. -/
namespace Sys2Proof.Machine

/-! ### Registers, sizes, conditions, forms -/

theorem reg3_val_mod (k : Nat) : (reg3 (k % 8)).val = k % 8 := Nat.mod_mod k 8

@[simp] theorem reg3_val (n : Fin 8) : reg3 n.val = n := Fin.ext (Nat.mod_eq_of_lt n.isLt)

@[simp] theorem register_mod (n : Fin 8) : n.val % 8 = n.val := Nat.mod_eq_of_lt n.isLt

@[simp] theorem sizeOfSs_ssOfSize (sz : Size) : sizeOfSs (ssOfSize sz) = some sz := by cases sz <;> rfl

theorem ssOfSize_of_sizeOfSs {k : Nat} {sz : Size} (h : sizeOfSs k = some sz) : ssOfSize sz = k := by
  unfold sizeOfSs at h
  split at h <;> cases h <;> rfl

@[simp] theorem ssOfSize_mod (sz : Size) : ssOfSize sz % 4 = ssOfSize sz := by cases sz <;> rfl

@[simp] theorem ssOfSize_ne_three (sz : Size) : ssOfSize sz ≠ 3 := by cases sz <;> decide

theorem moveOfSize_of_sizeOfMove {k : Nat} {sz : Size} (h : sizeOfMove k = some sz) : moveOfSize sz = k := by
  unfold sizeOfMove at h
  split at h <;> cases h <;> rfl

theorem bitOfSize_sizeOfBit (k : Nat) : bitOfSize (sizeOfBit (k % 2)) = k % 2 := by
  rcases Nat.mod_two_eq_zero_or_one k with h | h <;> rw [h] <;> rfl

theorem eq_w_or_l_of_sizeIsWL {sz : Size} (h : sizeIsWL sz = true) : sz = .w ∨ sz = .l := by
  cases sz
  · cases h
  · exact .inl rfl
  · exact .inr rfl

@[simp] theorem condOfCode_codeOfCond (c : Cond) : condOfCode (codeOfCond c) = c := by cases c <;> rfl

theorem codeOfCond_condOfCode {k : Nat} (h : k < 16) : codeOfCond (condOfCode k) = k := by
  interval_cases k <;> rfl

theorem codeOfCond_of_condIsBcc {c : Cond} (h : condIsBcc c = true) : codeOfCond c ≠ 0 ∧ codeOfCond c ≠ 1 := by
  cases c
  case t | f => cases h
  all_goals decide

theorem pairBit_pairForm (w : Nat) : pairBit (pairForm w) = w / 8 % 2 := by
  change pairBit (if w / 8 % 2 = 0 then .regs else .mem) = w / 8 % 2
  split
  · exact Eq.symm ‹_›
  · exact (Nat.mod_two_ne_zero.mp ‹_›).symm

@[simp] theorem pairBit_div_two (f : PairForm) : pairBit f % 8 / 2 = 0 := by cases f <;> rfl

/-! ### Operand forms -/

@[simp] theorem eaMode_mod (e : Ea) : eaMode e % 8 = eaMode e := Nat.mod_eq_of_lt (Nat.lt_succ_of_le (Laws.eaMode_le e))

@[simp] theorem eaReg_mod (e : Ea) : eaReg e % 8 = eaReg e := Nat.mod_eq_of_lt (Nat.lt_succ_of_le (Laws.eaReg_le e))

@[simp] theorem eaOfModeReg_eaMode_eaReg (e : Ea) : eaOfModeReg (eaMode e) (eaReg e) = some e := by
  cases e <;> simp [eaOfModeReg, eaMode, eaReg]

/-- Mode 7 is the only mode whose register number is no register: 0 and 1 are its forms (R103, R120). -/
theorem eaMode_eaReg_of_eaOfModeReg {m r : Nat} {e : Ea} (h : eaOfModeReg (m % 8) (r % 8) = some e) :
    eaMode e = m % 8 ∧ eaReg e = r % 8 := by
  unfold eaOfModeReg at h
  split at h
  case h_8 =>
    simp only [imp_false] at *
    have h7 : 7 = m % 8 := by omega
    split at h
    · cases h
      exact ⟨h7, Eq.symm ‹_›⟩
    · split at h <;> cases h
      exact ⟨h7, Eq.symm ‹_›⟩
  all_goals
    cases h
    exact ⟨Eq.symm ‹_›, reg3_val_mod r⟩

theorem eaField_of_eaIn {p : Ea → Bool} {w : Nat} {e : Ea} (h : eaIn p w = some e) : eaField e = w % 64 := by
  unfold eaIn at h
  split at h
  · rename_i he
    split at h
    · cases h
      obtain ⟨hm, hr⟩ := eaMode_eaReg_of_eaOfModeReg he
      rw [eaField, hm, hr]
      omega
    · cases h
  · cases h

theorem eaMode_ne_one {e : Ea} (h : eaIsData e = true) : eaMode e ≠ 1 := by
  cases e
  case an => cases h
  all_goals exact of_decide_eq_false rfl

theorem one_lt_eaMode {e : Ea} (h : eaIsMem e = true) : 1 < eaMode e := by
  cases e
  case dn | an => cases h
  all_goals exact of_decide_eq_true rfl

theorem isMem_of_isCtrl {e : Ea} (h : eaIsCtrl e = true) : eaIsMem e = true := by
  cases e
  case dn | an => cases h
  all_goals rfl

theorem isMem_of_isCtrlPre {e : Ea} (h : eaIsCtrlPre e = true) : eaIsMem e = true := by
  cases e
  case dn | an => cases h
  all_goals rfl

theorem eaMode_ne_zero {e : Ea} (h : eaIsMem e = true) : eaMode e ≠ 0 := Nat.ne_zero_of_lt (one_lt_eaMode h)

theorem eaIsAll_of_ne_b {sz : Size} (h : sz ≠ .b) (e : Ea) : eaIsAll sz e = true := by
  cases e
  case an => exact bne_iff_ne.mpr h
  all_goals rfl

/-! ### The bytes of a word (R64) -/

theorem append_bytes (w : Half) : w.extractLsb' 8 8 ++ w.extractLsb' 0 8 = w := by
  rw [BitVec.extractLsb'_append_extractLsb'_eq_extractLsb' (by decide)]
  exact BitVec.extractLsb'_eq_self

theorem decode_bytesOfHalf {w : Half} {i : Instr} (h : decodeOp w = .ok i) (rest : List Byte) :
    decode (bytesOfHalf w ++ rest) = .ok (i, rest) := by
  simp only [bytesOfHalf, List.cons_append, List.nil_append, decode, append_bytes, h]

end Sys2Proof.Machine
end

section
/-! SUPPORT. The family Encoding, from words to instructions: the instruction a word decodes to has that word as its
encoding, line by line (R110, R117, R118). That it is well-formed is `decodeOp_wf`. -/
namespace Sys2Proof.Machine

/-- The instruction a decoding line answers, where it answers one, is encoded by w. -/
def Encodes (w : Nat) (o : Option Instr) : Prop := ∀ i, o = some i → encodeNat i = w

section
variable {w op : Nat}

theorem Encodes.none : Encodes w none := fun _ h => nomatch h

theorem Encodes.some {i : Instr} (h : encodeNat i = w) : Encodes w (some i) := fun _ hi => Option.some.inj hi ▸ h

theorem Encodes.ite {c : Prop} [Decidable c] {o o' : Option Instr} (h : c → Encodes w o)
    (h' : ¬ c → Encodes w o') : Encodes w (if c then o else o') := by
  split
  · exact h ‹_›
  · exact h' ‹_›

/-- Bits 5:0 are the operand form's, and the bits above them are the instruction's. -/
theorem Encodes.withEa {p : Ea → Bool} {mk : Ea → Instr} (h : ∀ e, encodeNat (mk e) = op + eaField e)
    (hw : op + w % 64 = w := by omega) : Encodes w (withEa (eaIn p w) mk) := by
  intro i hi
  obtain ⟨e, he, rfl⟩ := Option.map_eq_some_iff.mp hi
  rw [h, eaField_of_eaIn he, hw]

theorem Encodes.sized {k : Nat} {mk : Size → Instr} (h : ∀ sz, ssOfSize sz = k → encodeNat (mk sz) = w) :
    Encodes w (match sizeOfSs k with | .some sz => .some (mk sz) | .none => .none) := by
  split
  · exact .some (h _ (ssOfSize_of_sizeOfSs ‹_›))
  · exact .none

/-- Bits 7:6 are the size's besides. -/
theorem Encodes.withSizeEa {p : Size → Ea → Bool} {mk : Size → Ea → Instr}
    (h : ∀ sz e, encodeNat (mk sz e) = op + ssOfSize sz * 64 + eaField e) (hw : op + w % 256 = w := by omega) :
    Encodes w (withSizeEa w p mk) := by
  unfold Sys2Proof.withSizeEa
  split
  · rename_i sz hsz
    have hss : ssOfSize sz = w / 64 % 4 := ssOfSize_of_sizeOfSs hsz
    exact .withEa (h sz)
  · exact .none

end

theorem decodeLine0_encodes {w : Nat} (hw : w / 4096 = 0) : Encodes w (decodeLine0 w) := by
  have hx := reg3_val_mod (w / 512)
  have hy := reg3_val_mod w
  have hb := bitOfSize_sizeOfBit (w / 64)
  simp only [decodeLine0, bitsAt, Nat.reducePow, Nat.div_one]
  split
  · split
    · refine .some ?_
      by_cases hd : w / 128 % 2 = 0 <;> simp only [hd, ↓reduceIte, encodeNat, encRR] <;> omega
    · split
      case h_4 =>
        simp only [imp_false] at *
        exact .withEa fun _ => rfl
      all_goals exact .withEa fun _ => rfl
  · split
    · exact .ite (fun h => .some h.symm) fun _ => .ite (fun h => .some h.symm) fun _ => .withSizeEa fun _ _ => rfl
    · exact .ite (fun h => .some h.symm) fun _ => .ite (fun h => .some h.symm) fun _ => .withSizeEa fun _ _ => rfl
    · exact .withSizeEa fun _ _ => rfl
    · exact .withSizeEa fun _ _ => rfl
    · split
      case h_4 =>
        simp only [imp_false] at *
        exact .withEa fun _ => rfl
      all_goals exact .withEa fun _ => rfl
    · exact .ite (fun h => .some h.symm) fun _ => .ite (fun h => .some h.symm) fun _ => .withSizeEa fun _ _ => rfl
    · exact .withSizeEa fun _ _ => rfl
    · exact .none

theorem decodeMove_encodes {w : Nat} (hw : w / 4096 < 4) : Encodes w (decodeMove w) := by
  have hx := reg3_val_mod (w / 512)
  simp only [decodeMove, bitsAt, Nat.reducePow]
  split
  · exact .none
  · rename_i hsz
    have hsize := moveOfSize_of_sizeOfMove hsz
    split
    · exact .none
    · rename_i hsrc
      have hfield := eaField_of_eaIn hsrc
      refine .ite (fun _ => .ite (fun _ => .some (by simp only [encodeNat]; omega)) fun _ => .none) fun _ => ?_
      split
      · exact .none
      · rename_i hdst
        obtain ⟨hmode, hreg⟩ := eaMode_eaReg_of_eaOfModeReg hdst
        exact .some (by simp only [encodeNat]; omega)

theorem decodeLine4E_encodes {w : Nat} (hw : w / 256 = 0x4E) : Encodes w (decodeLine4E w) := by
  have hy := reg3_val_mod w
  simp only [decodeLine4E, bitsAt, Nat.reducePow, Nat.div_one]
  split
  · split
    case h_7 =>
      split
      case h_8 => exact .none
      all_goals exact .some (by simp only [encodeNat]; omega)
    case h_8 => exact .none
    all_goals exact .some (by simp only [encodeNat, Fin.val_ofNat]; omega)
  · exact .withEa fun _ => rfl
  · exact .withEa fun _ => rfl
  · exact .none

theorem decodeLine4_encodes {w : Nat} (hw : w / 4096 = 4) : Encodes w (decodeLine4 w) := by
  have hx := reg3_val_mod (w / 512)
  have hy := reg3_val_mod w
  have hbw : bitOfSize .w = 0 := rfl
  have hbl : bitOfSize .l = 1 := rfl
  simp only [decodeLine4, bitsAt, Nat.reducePow, Nat.div_one]
  split
  · split
    · exact .withEa fun _ => rfl
    · exact .withEa fun _ => rfl
    · exact .none
  · split
    · exact .ite (fun _ => .withEa fun _ => rfl) fun _ => .withSizeEa fun _ _ => rfl
    · exact .withSizeEa fun _ _ => rfl
    · exact .ite (fun _ => .withEa fun _ => rfl) fun _ => .withSizeEa fun _ _ => rfl
    · exact .ite (fun _ => .withEa fun _ => rfl) fun _ => .withSizeEa fun _ _ => rfl
    · split
      case h_1 => exact .withEa fun _ => rfl
      case h_4 =>
        simp only [imp_false] at *
        exact .ite (fun _ => .some (by simp only [encodeNat]; omega)) fun _ => .withEa fun _ => rfl
      all_goals exact .ite (fun _ => .some (by simp only [encodeNat]; omega)) fun _ => .withEa fun _ => rfl
    · exact .ite (fun h => .some h.symm) fun _ =>
        .ite (fun _ => .withEa fun _ => rfl) fun _ => .withSizeEa fun _ _ => rfl
    · split
      · exact .withEa fun _ => rfl
      · exact .withEa fun _ => rfl
      · exact .none
    · simp only [imp_false] at *
      exact decodeLine4E_encodes (by omega)

theorem decodeLine5_encodes {w : Nat} (hw : w / 4096 = 5) : Encodes w (decodeLine5 w) := by
  have hx := reg3_val_mod (w / 512)
  have hy := reg3_val_mod w
  have hc := codeOfCond_condOfCode (k := w / 256 % 16) (by omega)
  simp only [decodeLine5, bitsAt, Nat.reducePow, Nat.div_one]
  exact .ite
    (fun _ => .ite (fun _ => .some (by simp only [encodeNat]; omega)) fun _ => .withEa fun _ => rfl)
    fun _ => .ite (fun _ => .withSizeEa fun _ _ => rfl) fun _ => .withSizeEa fun _ _ => rfl

theorem decodeLine6_encodes {w : Nat} (hw : w / 4096 = 6) : Encodes w (decodeLine6 w) := by
  have hc := codeOfCond_condOfCode (k := w / 256 % 16) (by omega)
  simp only [decodeLine6, bitsAt, Nat.reducePow, Nat.div_one]
  split <;> exact .some (by simp only [encodeNat, BitVec.toNat_ofNat]; omega)

theorem decodeLine7_encodes {w : Nat} (hw : w / 4096 = 7) : Encodes w (decodeLine7 w) := by
  have hx := reg3_val_mod (w / 512)
  simp only [decodeLine7, bitsAt, Nat.reducePow, Nat.div_one]
  exact .ite (fun _ => .some (by simp only [encodeNat, BitVec.toNat_ofNat]; omega)) fun _ => .none

theorem decodeLine8_encodes {w : Nat} (hw : w / 4096 = 8) : Encodes w (decodeLine8 w) := by
  have hx := reg3_val_mod (w / 512)
  have hy := reg3_val_mod w
  have hp := pairBit_pairForm w
  simp only [decodeLine8, bitsAt, Nat.reducePow, Nat.div_one]
  exact .ite
    (fun _ => .ite (fun _ => .withEa fun _ => rfl) fun _ => .withEa fun _ => rfl)
    fun _ => .ite (fun _ => .withSizeEa fun _ _ => rfl) fun _ =>
      .ite (fun _ => .some (by simp only [encodeNat, encRR]; omega)) fun _ => .withSizeEa fun _ _ => rfl

/-- Lines 9 and D, given the layout of each of their constructors. -/
theorem decodeAddSub_encodes {w line : Nat}
    {eaDn : Size → Ea → Fin 8 → Instr} {dnEa : Size → Fin 8 → Ea → Instr} {aW aL : Ea → Fin 8 → Instr}
    {xForm : Size → PairForm → Fin 8 → Fin 8 → Instr} (hw : w / 4096 = line)
    (h1 : ∀ sz e n, encodeNat (eaDn sz e n) = encRegEa (line * 4096) n sz e)
    (h2 : ∀ sz n e, encodeNat (dnEa sz n e) = encRegEa (line * 4096 + 0x100) n sz e)
    (h3 : ∀ e n, encodeNat (aW e n) = encNEa (line * 4096 + 0xC0) n e)
    (h4 : ∀ e n, encodeNat (aL e n) = encNEa (line * 4096 + 0x1C0) n e)
    (h5 : ∀ sz f x y, encodeNat (xForm sz f x y) =
      encRR (line * 4096 + 0x100) x y + ssOfSize sz * 64 + pairBit f * 8) :
    Encodes w (decodeAddSub w eaDn dnEa aW aL xForm) := by
  have hx := reg3_val_mod (w / 512)
  have hy := reg3_val_mod w
  have hp := pairBit_pairForm w
  simp only [decodeAddSub, bitsAt, Nat.reducePow, Nat.div_one]
  exact .ite
    (fun _ => .ite (fun _ => .withEa (h3 · _)) fun _ => .withEa (h4 · _))
    fun _ => .ite (fun _ => .withSizeEa (h1 · · _)) fun _ =>
      .ite (fun _ => .sized fun _ hsz => by simp only [h5, encRR]; omega) fun _ => .withSizeEa (h2 · _ ·)

theorem decodeLineB_encodes {w : Nat} (hw : w / 4096 = 11) : Encodes w (decodeLineB w) := by
  have hx := reg3_val_mod (w / 512)
  have hy := reg3_val_mod w
  simp only [decodeLineB, bitsAt, Nat.reducePow, Nat.div_one]
  exact .ite
    (fun _ => .ite (fun _ => .withEa fun _ => rfl) fun _ => .withEa fun _ => rfl)
    fun _ => .ite (fun _ => .withSizeEa fun _ _ => rfl) fun _ =>
      .ite (fun _ => .sized fun _ hsz => by simp only [encodeNat, encRR]; omega) fun _ => .withSizeEa fun _ _ => rfl

theorem decodeLineC_encodes {w : Nat} (hw : w / 4096 = 12) : Encodes w (decodeLineC w) := by
  have hx := reg3_val_mod (w / 512)
  have hy := reg3_val_mod w
  simp only [decodeLineC, bitsAt, Nat.reducePow, Nat.div_one]
  refine .ite
    (fun _ => .ite (fun _ => .withEa fun _ => rfl) fun _ => .withEa fun _ => rfl)
    fun _ => .ite (fun _ => .withSizeEa fun _ _ => rfl) fun _ => ?_
  split
  case h_6 => exact .withSizeEa fun _ _ => rfl
  all_goals exact .some (by simp only [encodeNat, encRR, pairBit]; omega)

/-- The SHIFTR layout of the count and the register that line E reads (R108). -/
theorem encShift_of_bits (w op : Nat) (sz : Size) :
    encShift op sz (if bitsAt w 5 1 = 0 then .imm (reg3 (bitsAt w 9 3)) else .reg (reg3 (bitsAt w 9 3)))
      (reg3 (bitsAt w 0 3)) = op + w / 512 % 8 * 512 + ssOfSize sz * 64 + w / 32 % 2 * 32 + w % 8 := by
  have hx := reg3_val_mod (w / 512)
  have hy := reg3_val_mod w
  split <;> simp only [encShift, bitsAt, Nat.reducePow, Nat.div_one] at * <;> omega

theorem decodeLineE_encodes {w : Nat} (hw : w / 4096 = 14) : Encodes w (decodeLineE w) := by
  unfold decodeLineE
  refine .ite (fun _ => ?_) fun _ => ?_
  · simp only [bitsAt, Nat.reducePow] at *
    split
    case h_9 => exact .none
    all_goals exact .withEa fun _ => rfl
  · split
    · exact .none
    · rename_i sz hsz
      have hss := ssOfSize_of_sizeOfSs hsz
      dsimp only
      split <;> refine .some ((encShift_of_bits w _ sz).trans ?_) <;>
        simp only [bitsAt, Nat.reducePow, imp_false] at * <;> omega

theorem decodeWord_encodes {w : Nat} (hw : w < 65536) : Encodes w (decodeWord w) := by
  simp only [decodeWord, bitsAt, Nat.reducePow]
  split
  · exact decodeLine0_encodes (by omega)
  · exact decodeMove_encodes (by omega)
  · exact decodeMove_encodes (by omega)
  · exact decodeMove_encodes (by omega)
  · exact decodeLine4_encodes (by omega)
  · exact decodeLine5_encodes (by omega)
  · exact decodeLine6_encodes (by omega)
  · exact decodeLine7_encodes (by omega)
  · exact decodeLine8_encodes (by omega)
  · exact decodeAddSub_encodes (line := 9) (by omega) (fun _ _ _ => rfl) (fun _ _ _ => rfl) (fun _ _ => rfl)
      (fun _ _ => rfl) fun _ _ _ _ => rfl
  · exact decodeLineB_encodes (by omega)
  · exact decodeLineC_encodes (by omega)
  · exact decodeAddSub_encodes (line := 13) (by omega) (fun _ _ _ => rfl) (fun _ _ _ => rfl) (fun _ _ => rfl)
      (fun _ _ => rfl) fun _ _ _ _ => rfl
  · exact decodeLineE_encodes (by omega)
  · exact .none

theorem encodeOp_of_decodeOp {w : Half} {i : Instr} (h : decodeOp w = .ok i) : encodeOp i = w := by
  unfold decodeOp at h
  split at h
  · rename_i hi
    cases h
    rw [encodeOp, decodeWord_encodes w.isLt _ hi, BitVec.ofNat_toNat, BitVec.setWidth_eq]
  · cases h

end Sys2Proof.Machine
end

section
/-! SUPPORT. The family Encoding, from instructions to words: every layout of the encoder (R106 to R109) is a word given
by its fields, the decoder reads those fields back, and so every well-formed instruction; then the proofs of
DecodeEncode, DecodeSound and DecodeWords. -/
namespace Sys2Proof.Machine

/-! ### A word and its fields -/

/-- The word with the given bits 15:12, 11:9, 8, 7:6, 5:3 and 2:0; what does not fit a field is cut off. -/
def wordOf (line x d s m y : Nat) : Nat :=
  line % 16 * 4096 + x % 8 * 512 + d % 2 * 256 + s % 4 * 64 + m % 8 * 8 + y % 8

section
variable (line x d s m y : Nat)

@[simp] theorem wordOf_lt : wordOf line x d s m y < 65536 := by simp only [wordOf]; omega

@[simp] theorem bitsAt_wordOf_12_4 : bitsAt (wordOf line x d s m y) 12 4 = line % 16 := by
  simp only [bitsAt, wordOf]; omega

@[simp] theorem bitsAt_wordOf_12_2 : bitsAt (wordOf line x d s m y) 12 2 = line % 4 := by
  simp only [bitsAt, wordOf]; omega

@[simp] theorem bitsAt_wordOf_9_3 : bitsAt (wordOf line x d s m y) 9 3 = x % 8 := by
  simp only [bitsAt, wordOf]; omega

@[simp] theorem bitsAt_wordOf_8_4 : bitsAt (wordOf line x d s m y) 8 4 = x % 8 * 2 + d % 2 := by
  simp only [bitsAt, wordOf]; omega

@[simp] theorem bitsAt_wordOf_8_1 : bitsAt (wordOf line x d s m y) 8 1 = d % 2 := by
  simp only [bitsAt, wordOf]; omega

@[simp] theorem bitsAt_wordOf_7_1 : bitsAt (wordOf line x d s m y) 7 1 = s / 2 % 2 := by
  simp only [bitsAt, wordOf]; omega

@[simp] theorem bitsAt_wordOf_6_3 : bitsAt (wordOf line x d s m y) 6 3 = d % 2 * 4 + s % 4 := by
  simp only [bitsAt, wordOf]; omega

@[simp] theorem bitsAt_wordOf_6_2 : bitsAt (wordOf line x d s m y) 6 2 = s % 4 := by
  simp only [bitsAt, wordOf]; omega

@[simp] theorem bitsAt_wordOf_6_1 : bitsAt (wordOf line x d s m y) 6 1 = s % 2 := by
  simp only [bitsAt, wordOf]; omega

@[simp] theorem bitsAt_wordOf_5_1 : bitsAt (wordOf line x d s m y) 5 1 = m / 4 % 2 := by
  simp only [bitsAt, wordOf]; omega

@[simp] theorem bitsAt_wordOf_4_4 : bitsAt (wordOf line x d s m y) 4 4 = s % 4 * 4 + m % 8 / 2 := by
  simp only [bitsAt, wordOf]; omega

@[simp] theorem bitsAt_wordOf_4_2 : bitsAt (wordOf line x d s m y) 4 2 = m % 8 / 2 := by
  simp only [bitsAt, wordOf]; omega

@[simp] theorem bitsAt_wordOf_3_5 : bitsAt (wordOf line x d s m y) 3 5 = s % 4 * 8 + m % 8 := by
  simp only [bitsAt, wordOf]; omega

@[simp] theorem bitsAt_wordOf_3_3 : bitsAt (wordOf line x d s m y) 3 3 = m % 8 := by
  simp only [bitsAt, wordOf]; omega

@[simp] theorem bitsAt_wordOf_3_2 : bitsAt (wordOf line x d s m y) 3 2 = m % 4 := by
  simp only [bitsAt, wordOf]; omega

@[simp] theorem bitsAt_wordOf_3_1 : bitsAt (wordOf line x d s m y) 3 1 = m % 2 := by
  simp only [bitsAt, wordOf]; omega

@[simp] theorem bitsAt_wordOf_0_8 : bitsAt (wordOf line x d s m y) 0 8 = s % 4 * 64 + m % 8 * 8 + y % 8 := by
  simp only [bitsAt, wordOf]; omega

@[simp] theorem bitsAt_wordOf_0_3 : bitsAt (wordOf line x d s m y) 0 3 = y % 8 := by
  simp only [bitsAt, wordOf]; omega

end

/-! ### Values spread over two or three fields -/

@[simp] theorem eaMode_split (e : Ea) : eaMode e / 4 % 2 * 4 + eaMode e % 4 = eaMode e := by
  have := Laws.eaMode_le e
  omega

@[simp] theorem codeOfCond_split (c : Cond) : codeOfCond c / 2 % 8 * 2 + codeOfCond c % 2 = codeOfCond c := by
  have := Laws.codeOfCond_lt c
  omega

@[simp] theorem ofNat_byte_split (b : Byte) :
    BitVec.ofNat 8 (b.toNat / 64 % 4 * 64 + b.toNat / 8 % 8 * 8 + b.toNat % 8) = b := by
  have h : b.toNat / 64 % 4 * 64 + b.toNat / 8 % 8 * 8 + b.toNat % 8 = b.toNat := by omega
  rw [h, BitVec.ofNat_toNat, BitVec.setWidth_eq]

/-! ### What the shared readers answer on a word given by its fields -/

section
variable {line x d s y : Nat} {e : Ea}

@[simp] theorem pairForm_wordOf (f : PairForm) : pairForm (wordOf line x d s (pairBit f) y) = f := by
  cases f <;> simp [pairForm, pairBit]

@[simp] theorem eaIn_wordOf {p : Ea → Bool} (hp : p e = true) :
    eaIn p (wordOf line x d s (eaMode e) (eaReg e)) = some e := by
  simp [eaIn, hp]

@[simp] theorem withSizeEa_wordOf {p : Size → Ea → Bool} {mk : Size → Ea → Instr} {sz : Size}
    (hp : p sz e = true) :
    withSizeEa (wordOf line x d (ssOfSize sz) (eaMode e) (eaReg e)) p mk = some (mk sz e) := by
  simp [withSizeEa, hp]

/-- The words of ORI, ANDI, EORI to CCR and SR and of ILLEGAL have mode 7 and register 4, which is no operand form. -/
@[simp] theorem wordOf_ea_ne {k : Nat} (hk : k % 64 = 60) : wordOf line x d s (eaMode e) (eaReg e) ≠ k := by
  cases e <;> simp only [wordOf, eaMode, eaReg] <;> omega

end

/-! ### The layouts (R106 to R109) -/

section
variable {op : Nat} (sz : Size) (e src dst : Ea) (n x y : Fin 8) (c : Cond) (f : PairForm) (b : Byte)

@[simp] theorem encSizeEa_eq_wordOf (h : op % 256 = 0) (hlt : op < 65536) :
    encSizeEa op sz e = wordOf (op / 4096) (op / 512) (op / 256) (ssOfSize sz) (eaMode e) (eaReg e) := by
  simp only [encSizeEa, wordOf, eaField, eaMode_mod, eaReg_mod, ssOfSize_mod]
  omega

@[simp] theorem encRegEa_eq_wordOf (h : op % 256 = 0) (hx : op % 4096 < 512) (hlt : op < 65536) :
    encRegEa op n sz e = wordOf (op / 4096) n (op / 256) (ssOfSize sz) (eaMode e) (eaReg e) := by
  simp only [encRegEa, wordOf, eaField, eaMode_mod, eaReg_mod, ssOfSize_mod]
  omega

@[simp] theorem encNEa_eq_wordOf (h : op % 64 = 0) (hx : op % 4096 < 512) (hlt : op < 65536) :
    encNEa op n e = wordOf (op / 4096) n (op / 256) (op / 64) (eaMode e) (eaReg e) := by
  simp only [encNEa, wordOf, eaField, eaMode_mod, eaReg_mod]
  omega

@[simp] theorem add_eaField_eq_wordOf (h : op % 64 = 0) (hlt : op < 65536) :
    op + eaField e = wordOf (op / 4096) (op / 512) (op / 256) (op / 64) (eaMode e) (eaReg e) := by
  simp only [wordOf, eaField, eaMode_mod, eaReg_mod]
  omega

theorem encRR_eq_wordOf (h : op % 8 = 0) (hx : op % 4096 < 512) (hlt : op < 65536) :
    encRR op x y = wordOf (op / 4096) x (op / 256) (op / 64) (op / 8) y := by
  simp only [encRR, wordOf]
  omega

theorem encRR_pair_eq_wordOf (h : op % 64 = 0) (hx : op % 4096 < 512) (hlt : op < 65536) :
    encRR op x y + pairBit f * 8 = wordOf (op / 4096) x (op / 256) (op / 64) (pairBit f) y := by
  have := Laws.pairBit_le f
  simp only [encRR, wordOf]
  omega

theorem encRR_size_eq_wordOf (h : op % 8 = 0) (hm : op % 256 < 64) (hx : op % 4096 < 512) (hlt : op < 65536) :
    encRR op x y + ssOfSize sz * 64 = wordOf (op / 4096) x (op / 256) (ssOfSize sz) (op / 8) y := by
  simp only [encRR, wordOf, ssOfSize_mod]
  omega

theorem encRR_size_pair_eq_wordOf (h : op % 256 = 0) (hx : op % 4096 < 512) (hlt : op < 65536) :
    encRR op x y + ssOfSize sz * 64 + pairBit f * 8 =
      wordOf (op / 4096) x (op / 256) (ssOfSize sz) (pairBit f) y := by
  have := Laws.pairBit_le f
  simp only [encRR, wordOf, ssOfSize_mod]
  omega

@[simp] theorem encShift_imm_eq_wordOf (h : op % 8 = 0) (hm : op % 256 < 32) (hx : op % 4096 < 512)
    (hlt : op < 65536) :
    encShift op sz (.imm x) n = wordOf (op / 4096) x (op / 256) (ssOfSize sz) (op / 8) n := by
  simp only [encShift, wordOf, ssOfSize_mod]
  omega

@[simp] theorem encShift_reg_eq_wordOf (h : op % 8 = 0) (hm : op % 256 < 32) (hx : op % 4096 < 512)
    (hlt : op < 65536) :
    encShift op sz (.reg x) n = wordOf (op / 4096) x (op / 256) (ssOfSize sz) (op / 8 + 4) n := by
  simp only [encShift, wordOf, ssOfSize_mod]
  omega

theorem add_register_eq_wordOf (h : op % 8 = 0) (hlt : op < 65536) :
    op + n.val = wordOf (op / 4096) (op / 512) (op / 256) (op / 64) (op / 8) n := by
  simp only [wordOf]
  omega

theorem add_byte_eq_wordOf (h : op % 256 = 0) (hlt : op < 65536) :
    op + b.toNat = wordOf (op / 4096) (op / 512) (op / 256) (b.toNat / 64) (b.toNat / 8) b.toNat := by
  simp only [wordOf]
  omega

theorem move_eq_wordOf : encodeNat (.move sz src dst) =
    wordOf (moveOfSize sz) (eaReg dst) (eaMode dst / 4) (eaMode dst) (eaMode src) (eaReg src) := by
  have := Laws.eaMode_le dst
  have := Laws.moveOfSize_le sz
  simp only [encodeNat, wordOf, eaField, eaMode_mod, eaReg_mod]
  omega

theorem movea_eq_wordOf : encodeNat (.movea sz src n) = wordOf (moveOfSize sz) n 0 1 (eaMode src) (eaReg src) := by
  have := Laws.moveOfSize_le sz
  simp only [encodeNat, wordOf, eaField, eaMode_mod, eaReg_mod]
  omega

theorem movep_memToReg_eq_wordOf : encodeNat (.movep .memToReg sz x y) = wordOf 0 x 1 (bitOfSize sz) 1 y := by
  have := Laws.bitOfSize_le sz
  simp only [encodeNat, encRR, wordOf]
  omega

theorem movep_regToMem_eq_wordOf : encodeNat (.movep .regToMem sz x y) = wordOf 0 x 1 (2 + bitOfSize sz) 1 y := by
  have := Laws.bitOfSize_le sz
  simp only [encodeNat, encRR, wordOf]
  omega

theorem scc_eq_wordOf : encodeNat (.scc c e) = wordOf 5 (codeOfCond c / 2) (codeOfCond c) 3 (eaMode e) (eaReg e) := by
  have := Laws.codeOfCond_lt c
  simp only [encodeNat, wordOf, eaField, eaMode_mod, eaReg_mod]
  omega

theorem dbcc_eq_wordOf : encodeNat (.dbcc c n) = wordOf 5 (codeOfCond c / 2) (codeOfCond c) 3 1 n := by
  have := Laws.codeOfCond_lt c
  simp only [encodeNat, wordOf]
  omega

theorem bcc_eq_wordOf : encodeNat (.bcc c b) =
    wordOf 6 (codeOfCond c / 2) (codeOfCond c) (b.toNat / 64) (b.toNat / 8) b.toNat := by
  have := Laws.codeOfCond_lt c
  simp only [encodeNat, wordOf]
  omega

theorem moveq_eq_wordOf : encodeNat (.moveq b n) = wordOf 7 n 0 (b.toNat / 64) (b.toNat / 8) b.toNat := by
  simp only [encodeNat, wordOf]
  omega

end

/-! ### The last arm of two decoding lines -/

theorem decodeLine6_eq_bcc {w : Nat} (h0 : bitsAt w 8 4 ≠ 0) (h1 : bitsAt w 8 4 ≠ 1) :
    decodeLine6 w = some (.bcc (condOfCode (bitsAt w 8 4)) (BitVec.ofNat 8 (bitsAt w 0 8))) := by
  unfold decodeLine6
  dsimp only
  split
  · exact absurd ‹_› h0
  · exact absurd ‹_› h1
  · rfl

/-- The other rows of line C with bit 8 set have mode 0 or 1 (ABCD, EXG). -/
theorem decodeLineC_eq_andDnEa {sz : Size} {e : Ea} {d : Nat} (h : eaIsMem e = true) (hd : d % 2 = 1) (n : Fin 8) :
    decodeLineC (wordOf 12 n d (ssOfSize sz) (eaMode e) (eaReg e)) = some (.andDnEa sz n e) := by
  have hmode := one_lt_eaMode h
  have hmode7 := Laws.eaMode_le e
  simp only [decodeLineC, bitsAt_wordOf_6_2, bitsAt_wordOf_8_1, bitsAt_wordOf_3_5, ssOfSize_mod, eaMode_mod,
    ssOfSize_ne_three, hd, one_ne_zero, if_false]
  split
  case h_6 => simp [h]
  all_goals omega

/-! ### Every well-formed instruction (R117) -/

/-- The number that encodes the instruction fits a word, and decodes to the instruction. -/
def Decodes (i : Instr) : Prop := encodeNat i < 65536 ∧ decodeWord (encodeNat i) = some i

/-- Each layout is rewritten to its fields, on which the decoder's tests are evaluated. Where two rows share a pattern
the class of the operand form tells them apart: no form of class DATA has mode 1 (MOVEP, MOVEA, DBcc, CMPM), and no
memory form has mode 0 or 1 (SWAP, EXT, SBCD, SUBX, ABCD, EXG, ADDX). -/
theorem decodes_of_wf {i : Instr} (h : i.wf = true) : Decodes i := by
  unfold Decodes
  cases i with
  | ori sz e | andi sz e | subi sz e | addi sz e | eori sz e | cmpi sz e =>
    simp [encodeNat, decodeWord, decodeLine0, show eaIsData e = true from h]
  | oriToCcr | oriToSr | andiToCcr | andiToSr | eoriToCcr | eoriToSr => decide
  | btst e | bchg e | bclr e | bset e =>
    simp [encodeNat, decodeWord, decodeLine0, withEa, show eaIsData e = true from h]
  | btstDn n e | bchgDn n e | bclrDn n e | bsetDn n e =>
    simp [encodeNat, decodeWord, decodeLine0, withEa, show eaIsData e = true from h, eaMode_ne_one h]
  | movep dir sz x y =>
    rcases eq_w_or_l_of_sizeIsWL h with rfl | rfl <;> cases dir <;>
      simp [movep_memToReg_eq_wordOf, movep_regToMem_eq_wordOf, bitOfSize, decodeWord, decodeLine0, sizeOfBit]
  | move sz src dst =>
    obtain ⟨hsrc, hdst⟩ := Bool.and_eq_true_iff.mp h
    cases sz <;> simp [move_eq_wordOf, moveOfSize, decodeWord, decodeMove, sizeOfMove, hsrc, eaMode_ne_one hdst]
  | movea sz src n =>
    rcases eq_w_or_l_of_sizeIsWL h with rfl | rfl <;>
      simp [movea_eq_wordOf, moveOfSize, decodeWord, decodeMove, sizeOfMove, eaIsAll_of_ne_b, sizeIsWL]
  | negx sz e | clr sz e | neg sz e | not sz e | tst sz e =>
    simp [encodeNat, decodeWord, decodeLine4, show eaIsData e = true from h]
  | moveFromSr e | moveToCcr e | moveToSr e | nbcd e | tas e | chk e n =>
    simp [encodeNat, decodeWord, decodeLine4, withEa, show eaIsData e = true from h]
  | lea e n => simp [encodeNat, decodeWord, decodeLine4, withEa, show eaIsCtrl e = true from h]
  | swap n | extW n | extL n => simp [encodeNat, add_register_eq_wordOf, decodeWord, decodeLine4]
  | pea e =>
    simp [encodeNat, decodeWord, decodeLine4, withEa, show eaIsCtrl e = true from h, eaMode_ne_zero (isMem_of_isCtrl h)]
  | movemToMem sz e =>
    obtain ⟨hsz, he⟩ := Bool.and_eq_true_iff.mp h
    rcases eq_w_or_l_of_sizeIsWL hsz with rfl | rfl <;>
      simp [encodeNat, bitOfSize, decodeWord, decodeLine4, withEa, he, eaMode_ne_zero (isMem_of_isCtrlPre he)]
  | movemToRegs sz e =>
    obtain ⟨hsz, he⟩ := Bool.and_eq_true_iff.mp h
    rcases eq_w_or_l_of_sizeIsWL hsz with rfl | rfl <;>
      simp [encodeNat, bitOfSize, decodeWord, decodeLine4, withEa, he]
  | trap v => revert v; decide
  | link n | unlk n | moveToUsp n | moveFromUsp n =>
    simp [encodeNat, add_register_eq_wordOf, decodeWord, decodeLine4, decodeLine4E]
  | illegal | reset | nop | stop | rte | rts | trapv | rtr => decide
  | jsr e | jmp e =>
    simp [encodeNat, decodeWord, decodeLine4, decodeLine4E, withEa, show eaIsCtrl e = true from h]
  | addq sz q e | subq sz q e => simp [encodeNat, decodeWord, decodeLine5, show eaIsAll sz e = true from h]
  | scc c e =>
    simp [scc_eq_wordOf, decodeWord, decodeLine5, withEa, show eaIsData e = true from h, eaMode_ne_one h]
  | dbcc c n => simp [dbcc_eq_wordOf, decodeWord, decodeLine5]
  | bra d | bsr d => simp [encodeNat, add_byte_eq_wordOf, decodeWord, decodeLine6]
  | bcc c d =>
    obtain ⟨h0, h1⟩ := codeOfCond_of_condIsBcc h
    simp [bcc_eq_wordOf, decodeWord, decodeLine6_eq_bcc, h0, h1]
  | moveq d n => simp [moveq_eq_wordOf, decodeWord, decodeLine7]
  | orEaDn sz e n => simp [encodeNat, decodeWord, decodeLine8, show eaIsData e = true from h]
  | orDnEa sz n e => simp [encodeNat, decodeWord, decodeLine8, show eaIsMem e = true from h, one_lt_eaMode h]
  | divu e n | divs e n => simp [encodeNat, decodeWord, decodeLine8, withEa, show eaIsData e = true from h]
  | sbcd f x y => simp [encodeNat, encRR_pair_eq_wordOf, decodeWord, decodeLine8]
  | subEaDn sz e n | addEaDn sz e n =>
    simp [encodeNat, decodeWord, decodeAddSub, show eaIsAll sz e = true from h]
  | subDnEa sz n e | addDnEa sz n e =>
    simp [encodeNat, decodeWord, decodeAddSub, show eaIsMem e = true from h, one_lt_eaMode h]
  | subaW e n | subaL e n | addaW e n | addaL e n =>
    simp [encodeNat, decodeWord, decodeAddSub, withEa, eaIsAll_of_ne_b]
  | subx sz f x y | addx sz f x y => simp [encodeNat, encRR_size_pair_eq_wordOf, decodeWord, decodeAddSub]
  | cmp sz e n => simp [encodeNat, decodeWord, decodeLineB, show eaIsAll sz e = true from h]
  | cmpaW e n | cmpaL e n => simp [encodeNat, decodeWord, decodeLineB, withEa, eaIsAll_of_ne_b]
  | eor sz n e => simp [encodeNat, decodeWord, decodeLineB, show eaIsData e = true from h, eaMode_ne_one h]
  | cmpm sz x y => simp [encodeNat, encRR_size_eq_wordOf, decodeWord, decodeLineB]
  | andEaDn sz e n => simp [encodeNat, decodeWord, decodeLineC, show eaIsData e = true from h]
  | andDnEa sz n e => simp [encodeNat, decodeWord, decodeLineC_eq_andDnEa (show eaIsMem e = true from h)]
  | mulu e n | muls e n => simp [encodeNat, decodeWord, decodeLineC, withEa, show eaIsData e = true from h]
  | abcd f x y =>
    rw [encodeNat, encRR_pair_eq_wordOf (op := 0xC100) x y f rfl (by decide) (by decide)]
    cases f <;> simp [pairBit, decodeWord, decodeLineC]
  | exgDD x y | exgAA x y | exgDA x y => simp [encodeNat, encRR_eq_wordOf, decodeWord, decodeLineC]
  | asrReg sz c n | aslReg sz c n | lsrReg sz c n | lslReg sz c n
  | roxrReg sz c n | roxlReg sz c n | rorReg sz c n | rolReg sz c n =>
    cases c <;> simp [encodeNat, decodeWord, decodeLineE]
  | asrMem e | aslMem e | lsrMem e | lslMem e | roxrMem e | roxlMem e | rorMem e | rolMem e =>
    simp [encodeNat, decodeWord, decodeLineE, withEa, show eaIsMem e = true from h]

theorem decodeOp_encodeOp {i : Instr} (h : i.wf = true) : decodeOp (encodeOp i) = .ok i := by
  obtain ⟨hlt, hdecode⟩ := decodes_of_wf h
  have htoNat : (encodeOp i).toNat = encodeNat i := Laws.Encoding.of_lt hlt
  simp only [decodeOp, htoNat, hdecode]

/-- Decoder and encoder say the same rows of the opcode table (R117, R118). -/
theorem decodeOp_eq_ok_iff {w : Half} {i : Instr} : decodeOp w = .ok i ↔ i.wf = true ∧ encodeOp i = w := by
  constructor
  · exact fun h => ⟨decodeOp_wf h, encodeOp_of_decodeOp h⟩
  · rintro ⟨h, rfl⟩
    exact decodeOp_encodeOp h

/-! ### The statements -/

/-- Settles O1: the first two bytes are those of the opcode word, which decodes to the instruction. -/
theorem decodeEncode : Obligations.DecodeEncode :=
  fun _ rest hwf => decode_bytesOfHalf (decodeOp_encodeOp hwf) rest

/-- Settles O2: the words that decode are the encodings of well-formed instructions. -/
theorem decodeSound : Obligations.DecodeSound := fun _ _ => decodeOp_eq_ok_iff.mp

/-- Settles O3: each of the thirteen words is the encoding of its instruction; the other three words have no row. -/
theorem decodeWords : Obligations.DecodeWords := by
  unfold Obligations.DecodeWords
  simp only [decodeOp_eq_ok_iff]
  decide

end Sys2Proof.Machine
end

section
/-! SUPPORT. The family Operands: what each operand form resolves to, with its extension words read from the stream; a
value written back where it was read; the proofs of OperandForms and WriteBackIdempotent. -/
namespace Sys2Proof.Machine

/-! ### The extension words (R104, R105, R147) -/

theorem State.streamWord_zero (s : State) : s.streamWord 0 = s.wordAt s.pc := by
  simp [State.streamWord]

theorem State.streamWord_one (s : State) : s.streamWord 1 = s.wordAt (s.pc + 2) := rfl

theorem wordsReady_two {s : State} : wordsReady s 2 = true ↔ fetchable s 0 = true ∧ fetchable s 1 = true := by
  rw [wordsReady_succ, wordsReady_one, fetchable_setPc]

/-- Bits 15:12 of an extension word number the index register. -/
theorem toNat_indexField (w : Half) : (w.extractLsb' 12 4).toNat = w.toNat / 4096 := by
  have hlt := w.isLt
  rw [BitVec.extractLsb'_toNat, Nat.shiftRight_eq_div_pow]
  omega

theorem sextByte_lowByte (w : Half) : sextByte (lowByte w) = (w.setWidth 8).signExtend 32 := by
  rw [sextByte, lowByte, BitVec.setWidth_eq_extractLsb' (by decide)]

theorem indexValue_eq (s : State) (w : Half) :
    indexValue s w = if w.getLsbD 11 then s.xreg (Fin.ofNat 16 (w.toNat / 4096))
      else ((s.xreg (Fin.ofNat 16 (w.toNat / 4096))).setWidth 16).signExtend 32 := by
  rw [indexValue, toNat_indexField]
  rfl

/-! ### The operand forms (R141 to R149, R151) -/

/-- A form without extension words resolves in any state, and only its side effect is made. -/
theorem resolve_of_eaWords_zero {sz : Size} {e : Ea} (s : State) (h : eaWords e = 0) :
    resolve sz e s = .ok (eaHandle sz e s) (eaSideEffect sz e s) := by
  rw [resolve_ok (by rw [h, wordsReady_zero]), eaAfter, h, State.afterWords_zero]

theorem resolve_disp {sz : Size} {n : Fin 8} {s : State} (h : fetchable s 0 = true) :
    resolve sz (.disp n) s = .ok (.mem (s.areg n + (s.wordAt s.pc).signExtend 32)) (s.setPc (s.pc + 2)) := by
  rw [resolve_ok (wordsReady_one.mpr h), eaHandle, State.streamWord_zero]
  rfl

theorem resolve_absW {sz : Size} {s : State} (h : fetchable s 0 = true) :
    resolve sz .absW s = .ok (.mem ((s.wordAt s.pc).signExtend 32)) (s.setPc (s.pc + 2)) := by
  rw [resolve_ok (wordsReady_one.mpr h), eaHandle, State.streamWord_zero]
  rfl

theorem resolve_index {sz : Size} {n : Fin 8} {s : State} (h : fetchable s 0 = true) :
    resolve sz (.index n) s =
      .ok (.mem (s.areg n + indexValue s (s.wordAt s.pc) + ((s.wordAt s.pc).setWidth 8).signExtend 32))
        (s.setPc (s.pc + 2)) := by
  rw [resolve_ok (wordsReady_one.mpr h), eaHandle, State.streamWord_zero, sextByte_lowByte]
  rfl

theorem resolve_absL {sz : Size} {s : State} (h : fetchable s 0 = true) (h' : fetchable s 1 = true) :
    resolve sz .absL s = .ok (.mem (s.wordAt s.pc ++ s.wordAt (s.pc + 2))) (s.setPc (s.pc + 4)) := by
  rw [resolve_ok (wordsReady_two.mpr ⟨h, h'⟩), eaHandle, State.streamWord_zero, State.streamWord_one]
  rfl

/-! ### Writing back what was read (R161) -/

section
variable {sz : Size} {a v : Word} {s : State}

theorem State.afterLoad_of_not_window (h : regionAt s.config (busAddr s.config a) ≠ .window) :
    s.afterLoad sz a = s := by
  simp [State.afterLoad, h]

/-- The read of a read-modify-write outside the device windows: it changes nothing. -/
theorem readH_of_not_window (hw : handleWritable s.config sz (.mem a) = true)
    (h : regionAt s.config (busAddr s.config a) ≠ .window) :
    readH sz (.mem a) s = .ok (s.loadValue sz a) s := by
  rw [readH_ok (handleReadable_of_writable hw), handleAfterRead, State.afterLoad_of_not_window h]
  rfl

/-- In RAM by the law of memory cells; in the hole and in a window no write touches memory. -/
theorem State.get_afterStore_loadValue (sz : Size) (a : Word) (s : State) (b : Nat) :
    Memory.get (s.afterStore sz a (s.loadValue sz a)).mem b = Memory.get s.mem b := by
  cases h : regionAt s.config (busAddr s.config a) with
  | ram =>
    simp only [State.afterStore, State.loadValue, h]
    exact Memory.get_store_load s.mem sz _ b
  | hole => simp [State.afterStore, h]
  | window => simp [State.afterStore, h]

theorem State.afterStore_wf (h : Memory.wf s.mem) : Memory.wf (s.afterStore sz a v).mem := by
  rcases s.afterStore_eq sz a v with heq | heq | ⟨_, _, _, _, _, heq⟩ <;> rw [heq]
  · exact h
  · exact Memory.store_wf sz _ v h
  · exact h

end

/-! ### The address registers of a resolution (R144, R145, R155) -/

theorem eaAfter_areg_of_not_mem (sz : Size) {e : Ea} (s : State) {n : Fin 8} (h : n ∉ eaStepped e) :
    (eaAfter sz e s).areg n = s.areg n :=
  (eaSideEffect_keeps (regsKept_stable [] (eaStepped e)) (fun _ hm v _ => .setA hm v)
    (s.afterWords (eaWords e))).areg n h

theorem eaAfter_areg_post (sz : Size) (n : Fin 8) (s : State) :
    (eaAfter sz (.post n) s).areg n = s.areg n + eaStep sz n := by
  simp [eaAfter, eaSideEffect]

theorem eaAfter_areg_pre (sz : Size) (n : Fin 8) (s : State) :
    (eaAfter sz (.pre n) s).areg n = s.areg n - eaStep sz n := by
  simp [eaAfter, eaSideEffect]

/-! ### The statements -/

/-- Settles O26: a form without extension words makes its side effect only; the others read theirs from the stream. -/
theorem operandForms : Obligations.OperandForms := by
  intro sz n s
  exact ⟨resolve_of_eaWords_zero s rfl, resolve_of_eaWords_zero s rfl, resolve_of_eaWords_zero s rfl,
    resolve_of_eaWords_zero s rfl, resolve_of_eaWords_zero s rfl,
    fun h => ⟨resolve_disp h, resolve_absW h, indexValue_eq s _ ▸ resolve_index h⟩, resolve_absL⟩

/-- Settles O27: the read changes nothing, the write stores the bytes that are there; the resolution alone steps An. -/
theorem writeBackIdempotent : Obligations.WriteBackIdempotent := by
  intro sz e s a hw ha hreg
  have hres := resolve_writable_ok hw
  have hwr := (operandWritable_iff.mp hw).2
  rw [ha] at hres hwr
  rw [← eaAfter_config sz e s] at hwr hreg
  have hbytes (b : Nat) : Memory.get ((eaAfter sz e s).afterStore sz a ((eaAfter sz e s).loadValue sz a)).mem b =
      Memory.get s.mem b := by
    rw [State.get_afterStore_loadValue, eaAfter_mem]
  refine ⟨eaAfter sz e s, _, _, hres, readH_of_not_window hwr hreg, writeH_ok hwr, hbytes, fun hwf => ?_,
    State.afterStore_a .., (State.afterStore_d ..).trans (eaAfter_d ..), fun n hn => ?_, fun n => ⟨?_, ?_⟩⟩
  · exact Memory.eq_of_get (State.afterStore_wf ((eaAfter_mem sz e s).symm ▸ hwf)) hwf hbytes
  · exact (State.afterStore_areg ..).trans (eaAfter_areg_of_not_mem sz s hn)
  · rintro rfl
    exact ⟨(Handle.mem.inj ha).symm, (State.afterStore_areg ..).trans (eaAfter_areg_post sz n s)⟩
  · rintro rfl
    exact ⟨(Handle.mem.inj ha).symm, (State.afterStore_areg ..).trans (eaAfter_areg_pre sz n s)⟩

end Sys2Proof.Machine
end

section
/-! SUPPORT. The family Dispatch loop: which transition is enabled, and what the step then is; the opcode fetch before
an instruction; the loop of executeChunk over instructions with nothing to deliver; the proofs of TransitionOrder,
StepRunsDecoded, TraceLatch and ChunkCounts. -/
namespace Sys2Proof.Machine

section
variable {s t u : State} {k n : Nat}

/-! ### Nothing to deliver (R184, R411) -/

theorem interruptAccepted_iff :
    s.interruptAccepted = true ↔ s.ipl ≠ 0 ∧ (s.ipl = 7 ∨ s.imask.toNat < s.ipl.toNat) := by
  simp [State.interruptAccepted]

theorem interruptAccepted_eq_false_iff :
    s.interruptAccepted = false ↔ s.ipl = 0 ∨ (s.ipl ≠ 7 ∧ s.ipl.toNat ≤ s.imask.toNat) := by
  rw [← Bool.not_eq_true, interruptAccepted_iff, not_and_or, not_or, not_not, Nat.not_lt]

theorem deliverable_eq_false_iff :
    deliverable s = false ↔ s.pendVec = 0 ∧ s.tracePend = false ∧ s.interruptAccepted = false := by
  simp [deliverable, and_assoc]

theorem quiescent_iff : quiescent s = true ↔ isOdd s.pc = false ∧ s.halted = true ∧ deliverable s = false := by
  simp only [quiescent, Bool.and_eq_true, Bool.not_eq_true']
  exact and_comm

/-! ### The step, by the first enabled transition (R184) -/

theorem step_eq_of_enabled {tr : Transition} (h : enabled s = tr) : step s = takeTransition s tr :=
  congrArg (takeTransition s) h

theorem enabled_of_pendVec (h : s.pendVec ≠ 0) : enabled s = .deliverException := if_pos h

theorem enabled_of_tracePend (hv : s.pendVec = 0) (ht : s.tracePend = true) : enabled s = .deliverTrace := by
  simp [enabled, hv, ht]

theorem enabled_of_interruptAccepted (hv : s.pendVec = 0) (ht : s.tracePend = false)
    (hi : s.interruptAccepted = true) : enabled s = .deliverInterrupt := by
  simp [enabled, hv, ht, hi]

theorem enabled_of_not_deliverable (h : deliverable s = false) :
    enabled s = if s.halted then .idle else if isOdd s.pc then .stuck else .execOne := by
  obtain ⟨hv, ht, hi⟩ := deliverable_eq_false_iff.mp h
  simp [enabled, hv, ht, hi]

theorem step_idle (hd : deliverable s = false) (hh : s.halted = true) : step s = .next s :=
  step_eq_of_enabled (tr := .idle) (by rw [enabled_of_not_deliverable hd, if_pos hh])

theorem step_stuck (hd : deliverable s = false) (hh : s.halted = false) (hpc : isOdd s.pc = true) :
    step s = .fault .stuckOddPc :=
  step_eq_of_enabled (tr := .stuck) (by simp [enabled_of_not_deliverable hd, hh, hpc])

theorem step_execOne (hd : deliverable s = false) (hh : s.halted = false) (hpc : isOdd s.pc = false) :
    step s = execOne s :=
  step_eq_of_enabled (tr := .execOne) (by simp [enabled_of_not_deliverable hd, hh, hpc])

/-! ### One instruction, and the trace latch (R182, R183, R413) -/

theorem execOne_of_fetchable (h : fetchable s 0 = true) : execOne s = execFetched (afterFetch s) := by
  simp only [execOne, fetchOpcode_ok h]

theorem execFetched_of_decodeOp {i : Instr} (h : decodeOp s.ir = .ok i) : execFetched s = exec i s := by
  simp only [execFetched, h]

theorem afterFetch_tracePend (s : State) : (afterFetch s).tracePend = s.t := s.latchTrace_tracePend

theorem fetchOpcode_raised_tracePend (h : fetchOpcode s = .error .raised t) : t.tracePend = s.t := by
  rw [fetchOpcode_apply] at h
  rcases memFetch_cases s.latchTrace.pc s.latchTrace with hm | ⟨-, hm⟩ | ⟨r, hm⟩
  · rw [M.bind_ok hm] at h
    cases h
  · rw [M.bind_error hm] at h
    cases h
    exact (State.signal_tracePend _).trans s.latchTrace_tracePend
  · rw [M.bind_error hm] at h
    cases h

/-- No instruction touches the trace-pending flag, whatever it does to T. -/
theorem exec_tracePend {i : Instr} (hwf : i.wf = true) (h : exec i s = .next t) : t.tracePend = s.tracePend :=
  ((exec_keeps hwf (specialKept_allows i s) h).elim id id).tracePend

theorem execOne_tracePend (h : execOne s = .next t) : t.tracePend = s.t := by
  rcases execOne_next h with hr | ⟨-, hx⟩
  · exact fetchOpcode_raised_tracePend hr
  · refine Eq.trans ?_ (afterFetch_tracePend s)
    rcases execFetched_next hx with ⟨i, hdec, hi⟩ | ⟨e, -, rfl⟩
    · exact exec_tracePend (decodeOp_wf hdec) hi
    · exact State.signal_tracePend _

/-! ### The loop of executeChunk (R186, R187, R189) -/

theorem settle_of_not_deliverable (h : deliverable s = false) : settle n s = .next s := by
  cases n <;> simp [settle, h]

theorem executeChunk_of_odd (h : isOdd s.pc = true) : executeChunk n s = .next s := if_pos h

theorem executeChunk_of_not_deliverable (hpc : isOdd s.pc = false) (hd : deliverable s = false) :
    executeChunk n s = if s.halted then .next (s.setAttention false)
      else chunkLoop n ((s.setAttention false).setBudget n 0) := by
  have hs : settle settleFuel (s.setAttention false) = .next (s.setAttention false) := settle_of_not_deliverable hd
  rw [executeChunk, if_neg (by simp [hpc]), hs]
  rfl

theorem executeChunk_halted (hpc : isOdd s.pc = false) (hh : s.halted = true) (hd : deliverable s = false) :
    executeChunk n s = .next (s.setAttention false) := by
  rw [executeChunk_of_not_deliverable hpc hd, if_pos hh]

/-- The states between the instructions of a quiet chunk, where k more may begin. -/
structure QuietAt (k : Nat) (s : State) : Prop where
  deliverable : deliverable s = false
  halted      : s.halted = false
  pc          : isOdd s.pc = false
  budget      : s.budget = k
  budgetSaved : s.budgetSaved = 0

theorem quietRun_succ (h : quietRun (k + 1) s = some t) :
    ∃ u, execOne (s.setBudget (s.budget - 1) s.budgetSaved) = .next u ∧ QuietAt k u ∧ quietRun k u = some t := by
  unfold quietRun at h
  split at h
  · rename_i u hx
    split at h
    · cases h
    · rename_i hq
      simp only [Bool.or_eq_true, not_or, Bool.not_eq_true, bne_eq_false_iff_eq] at hq
      obtain ⟨⟨⟨⟨hd, hh⟩, hpc⟩, hb⟩, hs⟩ := hq
      exact ⟨u, hx, ⟨hd, hh, hpc, hb, hs⟩, h⟩
  · cases h

/-- An instruction after which nothing is deliverable and no count was saved: the loop goes on in its next state. -/
theorem chunkLoop_succ (hs : QuietAt (k + 1) s) (hx : execOne (s.setBudget (s.budget - 1) s.budgetSaved) = .next u)
    (hu : QuietAt k u) : chunkLoop (k + 1) s = chunkLoop k u := by
  have hgo : ¬(s.budget = 0 ∨ s.halted = true ∨ isOdd s.pc = true) := by simp [hs.budget, hs.halted, hs.pc]
  have hr : resumeBudget u = u := if_pos hu.budgetSaved
  simp only [chunkLoop, if_neg hgo, hx, settle_of_not_deliverable hu.deliverable, hr]

theorem chunkLoop_of_quietRun (hs : QuietAt k s) (h : quietRun k s = some t) :
    chunkLoop k s = .next (t.setBudget 0 0) := by
  induction k generalizing s with
  | zero => cases h; rfl
  | succ k ih =>
    obtain ⟨u, hx, hu, hrest⟩ := quietRun_succ h
    rw [chunkLoop_succ hs hx hu, ih hu hrest]

theorem executeChunk_of_quietRun (hpc : isOdd s.pc = false) (hh : s.halted = false) (hd : deliverable s = false)
    (h : quietRun n ((s.setAttention false).setBudget n 0) = some t) :
    executeChunk n s = .next (t.setBudget 0 0) := by
  rw [executeChunk_of_not_deliverable hpc hd, if_neg (by simp [hh])]
  exact chunkLoop_of_quietRun ⟨hd, hh, hpc, rfl, rfl⟩ h

end

/-! ### The statements -/

/-- Settles O5: each guard enables its transition, and the step is that transition. -/
theorem transitionOrder : Obligations.TransitionOrder := by
  intro s
  refine ⟨fun hv => step_eq_of_enabled (enabled_of_pendVec hv),
    fun hv ht => step_eq_of_enabled (enabled_of_tracePend hv ht),
    fun hv ht hl hm => step_eq_of_enabled (enabled_of_interruptAccepted hv ht (interruptAccepted_iff.mpr ⟨hl, hm⟩)),
    fun hv ht hi => ?_⟩
  have hd : deliverable s = false := deliverable_eq_false_iff.mpr ⟨hv, ht, interruptAccepted_eq_false_iff.mpr hi⟩
  exact ⟨step_idle hd, step_stuck hd, step_execOne hd⟩

/-- Settles O6: the fetch goes through, and `ir` then holds the word that decodes. -/
theorem stepRunsDecoded : Obligations.StepRunsDecoded := by
  intro s i he hf hd
  refine ⟨?_, rfl, rfl, afterFetch_tracePend s⟩
  calc step s = execOne s := step_eq_of_enabled he
    _ = execFetched (afterFetch s) := execOne_of_fetchable hf
    _ = exec i (afterFetch s) := execFetched_of_decodeOp hd

/-- Settles O8: the fetch loads the latch from T, and nothing after it touches the latch. -/
theorem traceLatch : Obligations.TraceLatch := by
  intro s t he h
  exact execOne_tracePend ((step_eq_of_enabled he).symm.trans h)

/-- Settles O9: an induction over the instructions of the quiet run, and the ends of the loop. -/
theorem chunkCounts : Obligations.ChunkCounts := by
  refine ⟨fun _ _ hpc => ⟨executeChunk_of_odd hpc, by simp [quiescent, hpc]⟩, fun _ _ => executeChunk_halted,
    fun _ _ _ => executeChunk_of_quietRun, fun _ => ?_, fun _ _ hq => ?_⟩
  · rw [quiescent_iff, deliverable_eq_false_iff, interruptAccepted_eq_false_iff]
  · obtain ⟨hpc, hh, hd⟩ := quiescent_iff.mp hq
    exact ⟨step_idle hd hh, executeChunk_halted hpc hh hd⟩

end Sys2Proof.Machine
end

section
/-! SUPPORT. The family Data movement: how a run goes on after a fetch, an access, a push or an address that goes
through; what a sign-extended or half-wise built value is as a number; the proofs of MoveResult, RegisterResult,
AddressFormResult, LinkResult, MovemResult and MovepResult. -/
namespace Sys2Proof.Machine

/-! ### A run past an operation that goes through -/

section
variable {sz : Size} {a v : Word} {s : State}

theorem run_fetchWord {g : Half → M Unit} (h : wordsReady s 1 = true) :
    run (fetchWord >>= g) s = run (g (s.streamWord 0)) (s.afterWords 1) := run_bind_ok (fetchWord_ready h)

theorem run_memRead {g : Word → M Unit} (h : readable s.config sz a = true) :
    run (memRead sz a >>= g) s = run (g (s.loadValue sz a)) (s.afterLoad sz a) := run_bind_ok (memRead_ok h)

theorem run_memWrite {g : Unit → M Unit} (h : writable s.config sz a = true) :
    run (memWrite sz a v >>= g) s = run (g ()) (s.afterStore sz a v) := run_bind_ok (memWrite_ok h)

theorem run_eaAddress {e : Ea} {g : Word → M Unit} (hc : eaIsCtrl e = true) (hw : wordsReady s (eaWords e) = true)
    (ha : eaHandle .l e s = .mem a) : run (eaAddress e >>= g) s = run (g a) (s.afterWords (eaWords e)) :=
  run_bind_ok (eaAddress_ok hc hw ha)

end

/-! ### Values built from halves and bytes (R64, R220, R256) -/

theorem toNat_append_half (a b : Half) : (a ++ b).toNat = a.toNat * 65536 + b.toNat := by
  rw [BitVec.toNat_append, ← Nat.shiftLeft_add_eq_or_of_lt b.isLt, Nat.shiftLeft_eq]

theorem toNat_upperHalf (v : Word) : (v.extractLsb' 16 16).toNat = v.toNat / 65536 := by
  have hlt := v.isLt
  rw [BitVec.extractLsb'_toNat, Nat.shiftRight_eq_div_pow]
  omega

theorem toNat_lowerHalf (v : Word) : (v.extractLsb' 0 16).toNat = v.toNat % 65536 := by
  rw [BitVec.extractLsb'_toNat, Nat.shiftRight_zero]

theorem swapHalves_toNat (v : Word) : (swapHalves v).toNat = v.toNat % 65536 * 65536 + v.toNat / 65536 := by
  rw [swapHalves, toNat_append_half, toNat_upperHalf, toNat_lowerHalf]

theorem mergeLow_w_lowerHalf (old v : Word) : (mergeLow .w old v).setWidth 16 = v.setWidth 16 := by
  rw [mergeLow, BitVec.setWidth_append_eq_right, BitVec.setWidth_eq_extractLsb' (by decide)]

theorem mergeLow_w_upperHalf (old v : Word) : (mergeLow .w old v).toNat / 65536 = old.toNat / 65536 := by
  rw [← toNat_upperHalf, mergeLow, BitVec.extractLsb'_append_eq_left, toNat_upperHalf]

theorem mergeLow_w_halfOfBytes (old : Word) (b0 b1 : Byte) :
    mergeLow .w old ((halfOfBytes b0 b1).setWidth 32) = old.extractLsb' 16 16 ++ b0 ++ b1 := by
  rw [BitVec.append_assoc]
  show old.extractLsb' 16 16 ++ ((b0 ++ b1).setWidth 32).extractLsb' 0 16 = old.extractLsb' 16 16 ++ (b0 ++ b1)
  rw [← BitVec.setWidth_eq_extractLsb' (by decide), BitVec.setWidth_setWidth_of_le _ (by decide), BitVec.setWidth_eq]

/-! ### Flags of an extended or swapped value (R13, R213, R220, R256) -/

theorem signExtend_beq_zero {n m : Nat} (h : n ≤ m) (v : BitVec n) : (v.signExtend m == 0) = (v == 0) := by
  rw [Bool.eq_iff_iff, beq_iff_eq, beq_iff_eq, ← BitVec.toInt_inj, BitVec.toInt_signExtend_of_le h, ← BitVec.toInt_inj]
  simp

theorem setWidth_beq_zero {n m : Nat} (h : n ≤ m) (v : BitVec n) : (v.setWidth m == 0) = (v == 0) := by
  rw [Bool.eq_iff_iff, beq_iff_eq, beq_iff_eq, ← BitVec.toNat_inj, BitVec.toNat_setWidth_of_le h, ← BitVec.toNat_inj]
  simp

theorem ccrLogic_l_signExtend {n : Nat} (h : n < 32) (v : BitVec n) (old : Ccr) :
    ccrLogic .l (v.signExtend 32) old = { x := old.x, n := v.msb, z := v == 0, v := false, c := false } := by
  have hn : msb .l (v.signExtend 32) = v.msb := by
    rw [msb, BitVec.getLsbD_signExtend, if_neg (Nat.not_lt.mpr (Nat.le_of_lt_succ h) : ¬ sizeBits .l - 1 < n)]
    rfl
  rw [ccrLogic, hn, signExtend_beq_zero h.le]

theorem ccrLogic_l_sext_w (v : Word) (old : Ccr) : ccrLogic .l (sext .w v) old =
    { x := old.x, n := v.getLsbD 15, z := v.setWidth 16 == 0, v := false, c := false } := by
  rw [sext, ccrLogic_l_signExtend (by decide), BitVec.msb_setWidth]
  rfl

theorem trunc_w_sext_b (v : Word) : trunc .w (sext .b v) = ((v.setWidth 8).signExtend 16).setWidth 32 := by
  show (((v.setWidth 8).signExtend 32).setWidth 16).setWidth 32 = _
  congr 1
  ext i hi
  simp [BitVec.getElem_signExtend, hi.trans_le (by decide : 16 ≤ 32)]

theorem ccrLogic_w_sext_b (v : Word) (old : Ccr) : ccrLogic .w (trunc .w (sext .b v)) old =
    { x := old.x, n := v.getLsbD 7, z := v.setWidth 8 == 0, v := false, c := false } := by
  have hn : msb .w (((v.setWidth 8).signExtend 16).setWidth 32) = v.getLsbD 7 := by
    simp [msb, sizeBits, BitVec.getElem_signExtend, BitVec.msb_setWidth]
  rw [trunc_w_sext_b, ccrLogic, hn, setWidth_beq_zero (by decide), signExtend_beq_zero (by decide)]

theorem swapHalves_beq_zero (v : Word) : (swapHalves v == 0) = (v == 0) := by
  have h := swapHalves_toNat v
  rw [Bool.eq_iff_iff, beq_zero_iff_toNat, beq_zero_iff_toNat]
  omega

theorem ccrLogic_l_swapHalves (v : Word) (old : Ccr) :
    ccrLogic .l (swapHalves v) old = { x := old.x, n := v.getLsbD 15, z := v == 0, v := false, c := false } := by
  have hn : msb .l (swapHalves v) = v.getLsbD 15 := by
    show (v.extractLsb' 0 16 ++ v.extractLsb' 16 16).getLsbD 31 = _
    rw [BitVec.getLsbD_append, if_neg (by decide), BitVec.getLsbD_extractLsb']
    rfl
  rw [ccrLogic, hn, swapHalves_beq_zero]

/-! ### Instructions on registers alone (R213, R219, R220, R256) -/

section
variable (x y : Fin 8) (s : State)

theorem exec_moveq (data : Byte) :
    exec (.moveq data x) s = .next ((s.setD x (sextByte data)).setCcr (ccrLogic .l (sextByte data) s.ccr)) := rfl

theorem exec_exgDD : exec (.exgDD x y) s = .next ((s.setD x (s.dreg y)).setD y (s.dreg x)) := rfl

theorem exec_exgAA : exec (.exgAA x y) s = .next ((s.setA x (s.areg y)).setA y (s.areg x)) := rfl

theorem exec_exgDA : exec (.exgDA x y) s = .next ((s.setD x (s.areg y)).setA y (s.dreg x)) := rfl

theorem exec_swap : exec (.swap x) s =
    .next ((s.setD x (swapHalves (s.dreg x))).setCcr (ccrLogic .l (swapHalves (s.dreg x)) s.ccr)) := rfl

theorem exec_extW : exec (.extW x) s =
    .next ((s.setD x (mergeLow .w (s.dreg x) (trunc .w (sext .b (s.dreg x))))).setCcr
      (ccrLogic .w (trunc .w (sext .b (s.dreg x))) s.ccr)) := rfl

theorem exec_extL : exec (.extL x) s =
    .next ((s.setD x (sext .w (s.dreg x))).setCcr (ccrLogic .l (sext .w (s.dreg x)) s.ccr)) := rfl

/-- The register written first keeps the exchanged value, also where both names are one register. -/
theorem State.dreg_exchange : ((s.setD x (s.dreg y)).setD y (s.dreg x)).dreg x = s.dreg y := by
  rw [State.setD_dreg, State.setD_dreg_same]
  split
  next h => rw [h]
  next => rfl

theorem State.areg_exchange : ((s.setA x (s.areg y)).setA y (s.areg x)).areg x = s.areg y := by
  rw [State.setA_areg, State.setA_areg_same]
  split
  next h => rw [h]
  next => rfl

end

/-! ### MOVEM by form (R115, R214, R215) -/

theorem length_maskRegsReversed (mask : Half) : (maskRegsReversed mask).length = (maskRegs mask).length :=
  List.length_map ..

section
variable {sz : Size} {e : Ea} {n : Fin 8} {s : State}

theorem exec_movemToMem_ctrl (hc : eaIsCtrl e = true) (hw : wordsReady s 1 = true) : exec (.movemToMem sz e) s =
    run (eaAddress e >>= storeRegs sz (maskRegs (s.streamWord 0))) (s.afterWords 1) := by
  cases e with
  | pre n => cases hc
  | _ => exact run_fetchWord hw

theorem exec_movemToRegs_ctrl (hc : eaIsCtrl e = true) (hw : wordsReady s 1 = true) : exec (.movemToRegs sz e) s =
    run (eaAddress e >>= fun a => loadRegs sz (maskRegs (s.streamWord 0)) a >>= fun _ => pure ()) (s.afterWords 1) := by
  cases e with
  | post n => cases hc
  | _ => exact run_fetchWord hw

theorem exec_movemToMem_pre (hw : wordsReady s 1 = true) : exec (.movemToMem sz (.pre n)) s =
    run (storeRegsDown sz (maskRegsReversed (s.streamWord 0)) (s.areg n) >>= fun last => modify (·.setA n last))
      (s.afterWords 1) := run_fetchWord hw

theorem exec_movemToRegs_post (hw : wordsReady s 1 = true) : exec (.movemToRegs sz (.post n)) s =
    run (loadRegs sz (maskRegs (s.streamWord 0)) (s.areg n) >>= fun last => modify (·.setA n last))
      (s.afterWords 1) := run_fetchWord hw

end

/-! ### MOVEP (R216) -/

section
variable {sz : Size} {x y : Fin 8} {a : Word} {s : State}

theorem exec_movep_regToMem (hw : wordsReady s 1 = true) : exec (.movep .regToMem sz x y) s =
    run (movepStore sz x (s.areg y + sextHalf (s.streamWord 0))) (s.afterWords 1) := run_fetchWord hw

theorem exec_movep_memToReg (hw : wordsReady s 1 = true) : exec (.movep .memToReg sz x y) s =
    run (movepLoad sz x (s.areg y + sextHalf (s.streamWord 0))) (s.afterWords 1) := run_fetchWord hw

theorem run_movepStore_w (h0 : writable s.config .b a = true) (h2 : writable s.config .b (a + 2) = true) :
    run (movepStore .w x a) s =
      .next ((s.afterStore .b a (movepByte .w (s.dreg x) 0)).afterStore .b (a + 2) (movepByte .w (s.dreg x) 1)) := by
  rw [movepStore, run_get_bind, run_memWrite h0, run_memWrite (by simpa using h2)]
  rfl

theorem run_movepStore_l (h0 : writable s.config .b a = true) (h2 : writable s.config .b (a + 2) = true)
    (h4 : writable s.config .b (a + 4) = true) (h6 : writable s.config .b (a + 6) = true) :
    run (movepStore .l x a) s =
      .next ((((s.afterStore .b a (movepByte .l (s.dreg x) 0)).afterStore .b (a + 2)
        (movepByte .l (s.dreg x) 1)).afterStore .b (a + 4) (movepByte .l (s.dreg x) 2)).afterStore .b (a + 6)
        (movepByte .l (s.dreg x) 3)) := by
  rw [movepStore, run_get_bind, run_memWrite h0, run_memWrite (by simpa using h2), if_pos rfl,
    run_memWrite (by simpa using h4), run_ok (memWrite_ok (by simpa using h6))]

theorem run_movepLoad_w (h0 : readable s.config .b a = true) (h2 : readable s.config .b (a + 2) = true) :
    run (movepLoad .w x a) s =
      let s1 := s.afterLoad .b a
      .next ((s1.afterLoad .b (a + 2)).setD x ((s.dreg x).extractLsb' 16 16 ++ (s.loadValue .b a).setWidth 8 ++
        (s1.loadValue .b (a + 2)).setWidth 8)) := by
  rw [movepLoad, run_memRead h0, run_memRead (by simpa using h2), if_neg (by decide)]
  show Host.Outcome.next (State.setDLow _ .w x _) = _
  rw [State.setDLow, mergeLow_w_halfOfBytes, State.afterLoad_dreg, State.afterLoad_dreg]

theorem run_movepLoad_l (h0 : readable s.config .b a = true) (h2 : readable s.config .b (a + 2) = true)
    (h4 : readable s.config .b (a + 4) = true) (h6 : readable s.config .b (a + 6) = true) :
    run (movepLoad .l x a) s =
      let s1 := s.afterLoad .b a
      let s2 := s1.afterLoad .b (a + 2)
      let s3 := s2.afterLoad .b (a + 4)
      .next ((s3.afterLoad .b (a + 6)).setD x (longOfBytes ((s.loadValue .b a).setWidth 8)
        ((s1.loadValue .b (a + 2)).setWidth 8) ((s2.loadValue .b (a + 4)).setWidth 8)
        ((s3.loadValue .b (a + 6)).setWidth 8))) := by
  rw [movepLoad, run_memRead h0, run_memRead (by simpa using h2), if_pos rfl, run_memRead (by simpa using h4),
    run_memRead (by simpa using h6), run_modify]

end

/-! ### The statements -/

/-- Settles O28: the source is read, the destination resolved and written, and no operand operation touches the
flags. -/
theorem moveResult : Obligations.MoveResult := by
  intro sz src dst s u v hr hw
  show run (readEa sz src >>= fun v => resolve sz dst >>= fun hd => writeH sz hd v >>= fun _ =>
    putFlags (ccrLogic sz v)) s = _
  rw [run_readEa hr, run_bind_ok (resolve_writable_ok hw), run_assignFlags hw, afterOperand_ccr]

/-- Settles O30: the state of each instruction, then the number its value stands for and its flags. -/
theorem registerResult : Obligations.RegisterResult := by
  intro x y data s quiet
  have hq (f : Ccr) (n : Fin 8) (v : Word) : quiet ((s.setD n v).setCcr f) := ⟨rfl, rfl, rfl, rfl, rfl⟩
  have hd (f : Ccr) (v : Word) : ((s.setD x v).setCcr f).dreg x = v := s.setD_dreg_same x v
  refine ⟨?_, ?_, ?_, ?_, ?_, ?_, ?_⟩
  · refine ⟨_, exec_moveq x s data, ?_, ccrLogic_l_signExtend (by decide) data s.ccr, hq ..⟩
    rw [hd]
    exact BitVec.toInt_signExtend_of_le (by decide)
  · exact ⟨_, exec_exgDD x y s, State.dreg_exchange .., State.setD_dreg_same .., rfl, rfl, rfl, rfl, rfl, rfl⟩
  · exact ⟨_, exec_exgAA x y s, State.areg_exchange .., State.setA_areg_same .., rfl, rfl, rfl, rfl, rfl, rfl⟩
  · exact ⟨_, exec_exgDA x y s, State.setD_dreg_same .., State.setA_areg_same .., rfl, rfl, rfl, rfl, rfl, rfl⟩
  · refine ⟨_, exec_swap x s, ?_, ccrLogic_l_swapHalves .., hq ..⟩
    rw [hd, swapHalves_toNat]
  · refine ⟨_, exec_extW x s, ?_, ?_, ccrLogic_w_sext_b .., hq ..⟩
    · rw [hd, mergeLow_w_lowerHalf, trunc_w_sext_b, BitVec.setWidth_setWidth_of_le _ (by decide), BitVec.setWidth_eq]
      exact BitVec.toInt_signExtend_of_le (by decide)
    · rw [hd, mergeLow_w_upperHalf]
  · refine ⟨_, exec_extL x s, ?_, ccrLogic_l_sext_w .., hq ..⟩
    rw [hd]
    exact BitVec.toInt_signExtend_of_le (by decide)

/-- Settles O31: the address is computed, and then used, pushed or jumped to. -/
theorem addressFormResult : Obligations.AddressFormResult := by
  intro ea n a s hc hw ha u
  have hpush (v : Word) (hp : pushable .l s = true) : push .l v u = .ok () (afterPush .l v u) := push_ok hp
  refine ⟨run_eaAddress hc hw ha, fun hp => ?_, ?_, fun hp => ?_⟩
  · exact (run_eaAddress hc hw ha).trans (run_ok (hpush a hp))
  · exact (run_eaAddress hc hw ha).trans (run_loadPc a u)
  · exact (run_eaAddress hc hw ha).trans ((run_bind_ok (hpush u.pc hp)).trans (run_loadPc a _))

/-- Settles O32: LINK stores An as it stands once SP is decremented, also where An is SP; UNLK writes the popped value
last. -/
theorem linkResult : Obligations.LinkResult := by
  intro n s
  refine ⟨fun hw hp => ?_, fun hr => ?_⟩
  · intro sp
    have hp : writable s.config .l (s.areg 7 - 4) = true := hp
    refine (run_fetchWord hw).trans ?_
    rw [run_modify_bind, run_get_bind, run_get_bind, run_memWrite (by simpa using hp), run_modify_bind, run_modify]
    simp [State.setA_areg, sp, sextHalf]
  · refine (run_modify_bind ..).trans ?_
    rw [run_get_bind, run_memRead (by simpa using hr), run_modify_bind, run_modify]
    simp only [State.setA_areg_same, State.afterLoad_areg]
    rfl

/-- Settles O33: the mask word is fetched, then the transfers go through one by one; in the stepping forms the address
after the last transfer is written to An after them. -/
theorem movemResult : Obligations.MovemResult := by
  intro sz s hw u regs len
  refine ⟨fun ea a hc hwe ha => ⟨fun h => ?_, fun h => ?_⟩, fun n => ⟨fun h => ?_, fun h => ?_⟩⟩
  · rw [exec_movemToMem_ctrl hc hw, run_eaAddress hc hwe ha]
    exact run_ok (storeRegs_ok h)
  · rw [exec_movemToRegs_ctrl hc hw, run_eaAddress hc hwe ha]
    exact run_bind_ok (loadRegs_ok (s := u.afterWords (eaWords ea)) h)
  · have hlen := length_maskRegsReversed (s.streamWord 0)
    rw [exec_movemToMem_pre hw, run_bind_ok (storeRegsDown_ok (hlen ▸ h)), run_modify, hlen]
  · rw [exec_movemToRegs_post hw]
    exact run_bind_ok (loadRegs_ok (s := u) h)

/-- Settles O34: the displacement word is fetched, then each byte access goes through in order. -/
theorem movepResult : Obligations.MovepResult := by
  intro x y s hw u a v byte u1 u2 u3 b0 b1 b2 b3
  refine ⟨fun h0 h2 => ⟨?_, fun h4 h6 => ?_⟩, fun h0 h2 => ⟨?_, fun h4 h6 => ?_⟩⟩
  · exact (exec_movep_regToMem hw).trans (run_movepStore_w h0 h2)
  · exact (exec_movep_regToMem hw).trans (run_movepStore_l h0 h2 h4 h6)
  · exact (exec_movep_memToReg hw).trans (run_movepLoad_w h0 h2)
  · exact (exec_movep_memToReg hw).trans (run_movepLoad_l h0 h2 h4 h6)

end Sys2Proof.Machine
end

section
/-! SUPPORT. The family Integer arithmetic: the state after each shared meaning of arithmetic and logic whose operands go
through; a division by its three cases; products, quotients and remainders as integers; the proofs of MulDivArithmetic,
AddressRegisterResult, OperandToRegisterResult, RegisterToOperandResult, ImmediateResult, QuickResult, ExtendedResult,
UnaryResult, CompareResult and MultiplyDivideResult. -/
namespace Sys2Proof.Machine

/-! ### A data register written in part (R9) -/

@[simp] theorem State.setDLow_ccr (s : State) (sz : Size) (n : Fin 8) (v : Word) : (s.setDLow sz n v).ccr = s.ccr := rfl

/-! ### Two-operand arithmetic and logic (R155, R241, R290) -/

section
variable {sz : Size} {ea : Ea} {n : Fin 8} {s : State}

theorem run_fetchImm {g : Word → M Unit} (h : wordsReady s (immWords sz) = true) :
    run (fetchImm sz >>= g) s = run (g (immValue sz s)) (s.afterWords (immWords sz)) := run_bind_ok (fetchImm_ok h)

theorem run_aluEaDn (f : AluOp) (h : operandReadable sz ea s = true) : run (aluEaDn f sz ea n) s =
    let o := f sz (operandValue sz ea s) (trunc sz (s.dreg n)) false
    .next (((afterOperand sz ea s).setDLow sz n o.r).setCcr (ccrArith sz o)) := by
  rw [aluEaDn, run_readEa h, run_getD, run_putD, run_putFlags, afterOperand_dreg]

theorem run_logicEaDn (f : Word → Word → Word) (h : operandReadable sz ea s = true) : run (logicEaDn f sz ea n) s =
    let r := f (trunc sz (s.dreg n)) (operandValue sz ea s)
    .next (((afterOperand sz ea s).setDLow sz n r).setCcr (ccrLogic sz r s.ccr)) := by
  rw [logicEaDn, run_readEa h, run_getD, run_putD, run_putFlags, State.setDLow_ccr, afterOperand_ccr, afterOperand_dreg]

/-- A read-modify-write through one handle: the result and the flags of the value read. -/
theorem run_update {r : Word → Word} {f : Word → Ccr → Ccr} (h : operandWritable sz ea s = true) :
    run (resolve sz ea >>= fun hd => readH sz hd >>= fun d => writeH sz hd (r d) >>= fun _ => putFlags (f d)) s =
      .next ((afterUpdate sz ea (r (operandValue sz ea s)) s).setCcr (f (operandValue sz ea s) s.ccr)) := by
  rw [run_resolveRead h, run_writeFlags h]

theorem run_aluDnEa (f : AluOp) (h : operandWritable sz ea s = true) : run (aluDnEa f sz n ea) s =
    let o := f sz (trunc sz (s.dreg n)) (operandValue sz ea s) false
    .next ((afterUpdate sz ea o.r s).setCcr (ccrArith sz o)) := by
  rw [aluDnEa, run_resolveRead h, run_getD, run_writeFlags h, afterOperand_dreg]

theorem run_logicDnEa (f : Word → Word → Word) (h : operandWritable sz ea s = true) : run (logicDnEa f sz n ea) s =
    let r := f (operandValue sz ea s) (trunc sz (s.dreg n))
    .next ((afterUpdate sz ea r s).setCcr (ccrLogic sz r s.ccr)) := by
  rw [logicDnEa, run_resolveRead h, run_getD, run_writeFlags h, afterOperand_dreg]

theorem run_aluImmEa (f : AluOp) (hw : wordsReady s (immWords sz) = true)
    (h : operandWritable sz ea (s.afterWords (immWords sz)) = true) : run (aluImmEa f sz ea) s =
      let u := s.afterWords (immWords sz)
      let o := f sz (immValue sz s) (operandValue sz ea u) false
      .next ((afterUpdate sz ea o.r u).setCcr (ccrArith sz o)) := by
  rw [aluImmEa, run_fetchImm hw, run_update h]

theorem run_logicImmEa (f : Word → Word → Word) (hw : wordsReady s (immWords sz) = true)
    (h : operandWritable sz ea (s.afterWords (immWords sz)) = true) : run (logicImmEa f sz ea) s =
      let u := s.afterWords (immWords sz)
      let r := f (operandValue sz ea u) (immValue sz s)
      .next ((afterUpdate sz ea r u).setCcr (ccrLogic sz r s.ccr)) := by
  rw [logicImmEa, run_fetchImm hw, run_update h, State.afterWords_ccr]

end

/-! ### The quick forms (R112, R247, R252) -/

section
variable {sz : Size} {q : Fin 8} {ea : Ea} {s : State}

theorem ofNat_quickValue (q : Fin 8) :
    BitVec.ofNat 32 (quickValue q) = if q = 0 then (8 : Word) else BitVec.ofNat 32 q.val := by
  by_cases h : q = 0
  · rw [if_pos h, h]
    rfl
  · rw [if_neg h, quickValue, if_neg (Fin.val_ne_zero_iff.mpr h)]

theorem exec_addq_of_ne_an (h : ∀ n, ea ≠ .an n) : exec (.addq sz q ea) s = run (aluQuickEa addF sz q ea) s := by
  cases ea with
  | an n => exact absurd rfl (h n)
  | _ => rfl

theorem exec_subq_of_ne_an (h : ∀ n, ea ≠ .an n) : exec (.subq sz q ea) s = run (aluQuickEa subF sz q ea) s := by
  cases ea with
  | an n => exact absurd rfl (h n)
  | _ => rfl

theorem run_aluQuickEa (f : AluOp) (h : operandWritable sz ea s = true) : run (aluQuickEa f sz q ea) s =
    let o := f sz (BitVec.ofNat 32 (quickValue q)) (operandValue sz ea s) false
    .next ((afterUpdate sz ea o.r s).setCcr (ccrArith sz o)) := by
  rw [aluQuickEa, run_update h]

end

/-! ### The extended forms (R248, R253) -/

section
variable {sz : Size} {x y : Fin 8} {s : State}

theorem run_aluX_regs (f : AluOp) : run (aluX f sz .regs x y) s =
    let o := f sz (trunc sz (s.dreg y)) (trunc sz (s.dreg x)) s.ccr.x
    .next ((s.setDLow sz x o.r).setCcr (ccrArithX sz o s.ccr)) := rfl

theorem run_aluX_mem (f : AluOp) (hr : operandReadable sz (.pre y) s = true)
    (hw : operandWritable sz (.pre x) (afterOperand sz (.pre y) s) = true) : run (aluX f sz .mem x y) s =
      let u := afterOperand sz (.pre y) s
      let o := f sz (operandValue sz (.pre y) s) (operandValue sz (.pre x) u) s.ccr.x
      .next ((afterUpdate sz (.pre x) o.r u).setCcr (ccrArithX sz o s.ccr)) := by
  rw [aluX, run_readEa hr, run_resolveRead hw, run_get_bind, run_writeFlags hw, afterOperand_ccr, afterOperand_ccr]

end

/-! ### Comparisons (R241, R258 to R262) -/

/-- An operand read and the flags of its value set: nothing is stored. -/
theorem run_readFlags {sz : Size} {e : Ea} {s : State} {f : Word → Ccr → Ccr} (h : operandReadable sz e s = true) :
    run (readEa sz e >>= fun v => putFlags (f v)) s =
      .next ((afterOperand sz e s).setCcr (f (operandValue sz e s) s.ccr)) := by
  rw [run_readEa h, run_putFlags, afterOperand_ccr]

/-! ### Products, and divisions by their cases (R242, R243, R263 to R266) -/

section
variable {ea : Ea} {n : Fin 8} {s : State}

theorem exec_mulu (h : operandReadable .w ea s = true) : exec (.mulu ea n) s =
    let r := mulUnsigned (operandValue .w ea s) (s.dreg n)
    .next (((afterOperand .w ea s).setD n r).setCcr (ccrMulDiv (msb .l r) (r == 0) s.ccr)) := by
  refine (run_readEa h).trans ?_
  rw [run_get_bind, run_modify_bind, run_putFlags, State.setD_ccr, afterOperand_ccr, afterOperand_dreg]

theorem exec_muls (h : operandReadable .w ea s = true) : exec (.muls ea n) s =
    let r := mulSigned (operandValue .w ea s) (s.dreg n)
    .next (((afterOperand .w ea s).setD n r).setCcr (ccrMulDiv (msb .l r) (r == 0) s.ccr)) := by
  refine (run_readEa h).trans ?_
  rw [run_get_bind, run_modify_bind, run_putFlags, State.setD_ccr, afterOperand_ccr, afterOperand_dreg]

theorem run_ite (c : Prop) [Decidable c] (x y : M Unit) (s : State) :
    run (if c then x else y) s = if c then run x s else run y s := apply_ite (fun m => run m s) c x y

/-- The three cases of DIVU; the remainder `d - q * v` of the rule is `d % v`. -/
theorem exec_divu (h : operandReadable .w ea s = true) : exec (.divu ea n) s =
    let u := afterOperand .w ea s
    let v := operandValue .w ea s
    let d := (s.dreg n).toNat
    let q := d / v.toNat
    if v = 0 then .next (afterRaise 5 u)
    else if 0xFFFF < q then
      .next ((u.setDrawn (s.drawn + 1)).setCcr (ccrDivOverflow (Config.freeValue s.drawn) s.ccr))
    else .next ((u.setD n (BitVec.ofNat 16 (d % v.toNat) ++ BitVec.ofNat 16 q)).setCcr
      (ccrMulDiv ((BitVec.ofNat 16 q).getLsbD 15) (decide (q = 0)) s.ccr)) := by
  refine (run_readEa h).trans ?_
  rw [run_get_bind, run_ite, run_ite, run_raise, run_drawFree, run_putFlags, run_modify_bind, run_putFlags]
  simp [Nat.mod_eq_sub_div_mul]

/-- The three cases of DIVS; the remainder `d - q * v` of the rule is that of the division rounding toward zero. -/
theorem exec_divs (h : operandReadable .w ea s = true) : exec (.divs ea n) s =
    let u := afterOperand .w ea s
    let v := operandValue .w ea s
    let d := (s.dreg n).toInt
    let q := d.tdiv (signedWord v)
    if v = 0 then .next (afterRaise 5 u)
    else if q < -32768 ∨ 32767 < q then
      .next ((u.setDrawn (s.drawn + 1)).setCcr (ccrDivOverflow (Config.freeValue s.drawn) s.ccr))
    else .next ((u.setD n (BitVec.ofInt 16 (d.tmod (signedWord v)) ++ BitVec.ofInt 16 q)).setCcr
      (ccrMulDiv (decide (q < 0)) (decide (q = 0)) s.ccr)) := by
  refine (run_readEa h).trans ?_
  rw [run_get_bind, run_ite, run_ite, run_raise, run_drawFree, run_putFlags, run_modify_bind, run_putFlags]
  simp [Int.tmod_def, Int.mul_comm]

/-- The top bit of a quotient that fits a word. -/
theorem getLsbD_fifteen_ofNat {q : Nat} (h : q ≤ 0xFFFF) : (BitVec.ofNat 16 q).getLsbD 15 = decide (0x8000 ≤ q) := by
  rw [← BitVec.msb_eq_getLsbD_last, BitVec.msb_eq_decide, BitVec.toNat_ofNat]
  congr 2
  omega

theorem exec_divu_of_fits (h : operandReadable .w ea s = true) :
    let v := operandValue .w ea s
    let q := (s.dreg n).toNat / v.toNat
    v ≠ 0 → q ≤ 0xFFFF → exec (.divu ea n) s =
      .next (((afterOperand .w ea s).setD n (BitVec.ofNat 16 ((s.dreg n).toNat % v.toNat) ++ BitVec.ofNat 16 q)).setCcr
        (ccrMulDiv (decide (0x8000 ≤ q)) (decide (q = 0)) s.ccr)) := by
  intro v q hv hq
  rw [← getLsbD_fifteen_ofNat hq]
  exact (exec_divu h).trans ((if_neg hv).trans (if_neg hq.not_gt))

theorem exec_divs_of_fits (h : operandReadable .w ea s = true) :
    let v := operandValue .w ea s
    let q := (s.dreg n).toInt.tdiv (signedWord v)
    v ≠ 0 → -32768 ≤ q → q ≤ 32767 → exec (.divs ea n) s =
      .next (((afterOperand .w ea s).setD n (BitVec.ofInt 16 ((s.dreg n).toInt.tmod (signedWord v)) ++
        BitVec.ofInt 16 q)).setCcr (ccrMulDiv (decide (q < 0)) (decide (q = 0)) s.ccr)) := by
  intro v q hv hlo hhi
  exact (exec_divs h).trans ((if_neg hv).trans (if_neg (not_or.mpr ⟨hlo.not_gt, hhi.not_gt⟩)))

end

/-! ### Products and quotients as integers (R242, R243) -/

theorem signedWord_trunc_w (v : Word) : signedWord (trunc .w v) = signedWord v := by
  rw [signedWord, trunc, BitVec.setWidth_setWidth_of_le _ (by decide), BitVec.setWidth_eq, signedWord]

theorem signedWord_bounds (v : Word) : -32768 ≤ signedWord v ∧ signedWord v ≤ 32767 :=
  ⟨BitVec.le_toInt _, BitVec.toInt_le⟩

theorem mulUnsigned_toNat (a b : Word) : (mulUnsigned a b).toNat = a.toNat % 65536 * (b.toNat % 65536) := by
  have hle : a.toNat % 65536 * (b.toNat % 65536) ≤ 65535 * 65535 := Nat.mul_le_mul (by omega) (by omega)
  rw [mulUnsigned, trunc_toNat, trunc_toNat, BitVec.toNat_ofNat]
  exact Nat.mod_eq_of_lt (hle.trans_lt (by decide))

theorem mulSigned_toInt (a b : Word) : (mulSigned a b).toInt = signedWord a * signedWord b := by
  have hle : signedWord a * signedWord b ≤ 2 ^ 30 := BitVec.toInt_mul_toInt_le (w := 16)
  have hge : -2 ^ 30 ≤ signedWord a * signedWord b := BitVec.le_toInt_mul_toInt (w := 16)
  exact BitVec.toInt_ofInt_eq_self (by decide) (by omega) (by omega)

/-- The remainder of a division rounding toward zero is 0 or has the sign of the dividend. -/
theorem tmod_pos_iff (a b : Int) : a.tmod b = 0 ∨ (0 < a.tmod b ↔ 0 < a) := by
  rcases le_or_gt 0 a with h | h
  · have := Int.tmod_nonneg b h
    rcases h.eq_or_lt with rfl | h
    · exact .inl (Int.zero_tmod b)
    · omega
  · have := Int.tmod_nonneg b (Int.neg_nonneg_of_nonpos h.le)
    rw [Int.neg_tmod] at this
    omega

theorem natAbs_tmod_lt (a : Int) {b : Int} (h : b ≠ 0) : (a.tmod b).natAbs < b.natAbs := by
  rw [Int.natAbs_tmod]
  exact Nat.mod_lt _ (Int.natAbs_pos.mpr h)

theorem toNat_ofNat_half {k : Nat} (h : k ≤ 65535) : (BitVec.ofNat 16 k).toNat = k :=
  Nat.mod_eq_of_lt (Nat.lt_succ_of_le h)

theorem toInt_ofInt_half {i : Int} (hlo : -32768 ≤ i) (hhi : i ≤ 32767) : (BitVec.ofInt 16 i).toInt = i :=
  BitVec.toInt_ofInt_eq_self (by decide) hlo (by omega)

theorem half_append_inj {a b c d : Half} (h : a ++ b = c ++ d) : a = c ∧ b = d := by
  constructor
  · simpa only [BitVec.extractLsb'_append_eq_left] using congrArg (BitVec.extractLsb' 16 16) h
  · simpa only [BitVec.extractLsb'_append_eq_right] using congrArg (BitVec.extractLsb' 0 16) h

/-! ### The statements -/

/-- Settles O29: the operand is read, then An, and no operation touches the flags. -/
theorem addressRegisterResult : Obligations.AddressRegisterResult := by
  intro ea n s
  exact ⟨fun _ h => run_readEa h, fun h => ⟨run_readEa h, run_readEa h⟩, fun h => ⟨run_readEa h, run_readEa h⟩⟩

/-- Settles O35: one meaning for ADD and SUB, one for AND and OR, whose operands commute. -/
theorem operandToRegisterResult : Obligations.OperandToRegisterResult := by
  intro sz ea n s h u v d
  refine ⟨run_aluEaDn addF h, run_aluEaDn subF h, ?_, ?_⟩
  · rw [BitVec.and_comm v d]
    exact run_logicEaDn (· &&& ·) h
  · rw [BitVec.or_comm v d]
    exact run_logicEaDn (· ||| ·) h

/-- Settles O36: the operand is read and written through one handle. -/
theorem registerToOperandResult : Obligations.RegisterToOperandResult := by
  intro sz ea n s h d v
  exact ⟨run_aluDnEa addF h, run_aluDnEa subF h, run_logicDnEa (· &&& ·) h, run_logicDnEa (· ||| ·) h,
    run_logicDnEa (· ^^^ ·) h⟩

/-- Settles O37: as O36, in the state after the immediate. -/
theorem immediateResult : Obligations.ImmediateResult := by
  intro sz ea s u v d hw h
  exact ⟨run_aluImmEa addF hw h, run_aluImmEa subF hw h, run_logicImmEa (· &&& ·) hw h, run_logicImmEa (· ||| ·) hw h,
    run_logicImmEa (· ^^^ ·) hw h⟩

/-- Settles O38: An apart, the quick forms are read-modify-writes with the field's value. -/
theorem quickResult : Obligations.QuickResult := by
  intro sz q ea s v d
  have hv : BitVec.ofNat 32 (quickValue q) = v := ofNat_quickValue q
  rw [← hv]
  refine ⟨?_, fun hne h => ⟨?_, ?_⟩⟩
  · rintro n rfl
    exact ⟨rfl, rfl⟩
  · exact (exec_addq_of_ne_an hne).trans (run_aluQuickEa addF h)
  · exact (exec_subq_of_ne_an hne).trans (run_aluQuickEa subF h)

/-- Settles O39: the register form, and the memory form with Ay read before Ax is resolved. -/
theorem extendedResult : Obligations.ExtendedResult := by
  intro sz x y s v d u vm dm
  exact ⟨run_aluX_regs addF, run_aluX_regs subF, fun hr hw => ⟨run_aluX_mem addF hr hw, run_aluX_mem subF hr hw⟩⟩

/-- Settles O40: NEG, NEGX and NOT are read-modify-writes; CLR writes through the handle without a read. -/
theorem unaryResult : Obligations.UnaryResult := by
  intro sz ea s h d
  refine ⟨run_update h, ?_, run_update h, ?_⟩
  · refine (run_resolveRead h).trans ?_
    rw [run_get_bind, run_writeFlags h, afterOperand_ccr]
  · refine (run_bind_ok (resolve_writable_ok h)).trans ((run_assignFlags h).trans ?_)
    have h0 : ccrLogic sz 0 s.ccr = { x := s.ccr.x, n := false, z := true, v := false, c := false } := by
      simp [ccrLogic, msb]
    rw [h0]

/-- Settles O41: the operands are read in the order of the rule, then the flags are set from them. -/
theorem compareResult : Obligations.CompareResult := by
  intro sz ea n x y s
  refine ⟨fun h => ⟨?_, run_readFlags h⟩, fun h => ?_, fun h => ?_, fun hw h => ?_, fun hy hx => ?_⟩
  · refine (run_readEa h).trans ?_
    rw [run_getD, run_putFlags, afterOperand_dreg, afterOperand_ccr]
  · refine (run_readEa h).trans ?_
    rw [run_get_bind, run_putFlags, afterOperand_ccr]
  · refine (run_readEa h).trans ?_
    rw [run_get_bind, run_putFlags, afterOperand_ccr]
  · exact (run_fetchImm hw).trans (run_readFlags h)
  · refine (run_readEa hy).trans ((run_readFlags hx).trans ?_)
    rw [afterOperand_ccr]

/-- Settles O42: the products, and each division in the case its divisor and quotient are in. -/
theorem multiplyDivideResult : Obligations.MultiplyDivideResult := by
  intro ea n s h u v d
  refine ⟨⟨_, exec_mulu h, rfl⟩, ⟨_, exec_muls h, rfl⟩, fun hv => ⟨?_, ?_⟩, exec_divu_of_fits h, fun hv hq => ?_,
    exec_divs_of_fits h, fun hv hq => ?_⟩
  · exact (exec_divu h).trans (if_pos hv)
  · exact (exec_divs h).trans (if_pos hv)
  · exact ⟨_, _, (exec_divu h).trans ((if_neg hv).trans (if_pos hq))⟩
  · exact ⟨_, _, (exec_divs h).trans ((if_neg hv).trans (if_pos hq))⟩

/-- Settles O21: the products do not leave 32 bits; a quotient that fits and its remainder are the halves of the
register, and rounding toward zero gives the remainder its size and sign. -/
theorem mulDivArithmetic : Obligations.MulDivArithmetic := by
  refine ⟨fun a b => ⟨mulUnsigned_toNat a b, mulSigned_toInt a b⟩, fun n m s hi lo hv hlo hhi => ?_,
    fun n m s hi lo hv hq => ?_⟩
  · have hs : signedWord (operandValue .w (.dn m) s) = signedWord (s.dreg m) := signedWord_trunc_w _
    have hv' : operandValue .w (.dn m) s ≠ 0 := fun h0 => hv (hs.symm.trans (congrArg signedWord h0))
    have hx := exec_divs_of_fits rfl hv' (hs ▸ hlo) (hs ▸ hhi)
    rw [hs] at hx
    refine ⟨_, hx, fun hreg => ?_⟩
    obtain ⟨rfl, rfl⟩ := half_append_inj ((State.setD_dreg_same ..).symm.trans hreg)
    have hlt := natAbs_tmod_lt (s.dreg n).toInt hv
    have hb := signedWord_bounds (s.dreg m)
    rw [toInt_ofInt_half hlo hhi, toInt_ofInt_half (by omega) (by omega)]
    exact ⟨(Int.tdiv_mul_add_tmod ..).symm, hlt, tmod_pos_iff ..⟩
  · have hs : (operandValue .w (.dn m) s).toNat = (s.dreg m).toNat % 65536 := trunc_toNat .w _
    have hv' : operandValue .w (.dn m) s ≠ 0 := fun h0 => hv (hs.symm.trans (congrArg BitVec.toNat h0))
    have hx := exec_divu_of_fits rfl hv' (hs ▸ hq)
    rw [hs] at hx
    refine ⟨_, hx, fun hreg => ?_⟩
    obtain ⟨rfl, rfl⟩ := half_append_inj ((State.setD_dreg_same ..).symm.trans hreg)
    have hlt := Nat.mod_lt (s.dreg n).toNat (Nat.pos_of_ne_zero hv)
    rw [toNat_ofNat_half hq, toNat_ofNat_half (by omega)]
    exact ⟨(Nat.div_add_mod' ..).symm, hlt⟩

end Sys2Proof.Machine
end

section
/-! SUPPORT. The family Logical: the logical operations on CCR through their one meaning, and SR as it stands once an
operand is resolved; the proof of CcrResult. -/
namespace Sys2Proof.Machine

@[simp] theorem State.afterWords_getSr (s : State) (n : Nat) : (s.afterWords n).getSr = s.getSr := rfl

@[simp] theorem eaAfter_getSr (sz : Size) (e : Ea) (s : State) : (eaAfter sz e s).getSr = s.getSr :=
  State.getSr_congr (eaAfter_t ..) (eaAfter_sup ..) (eaAfter_imask ..) (eaAfter_ccr ..)

/-- The SR combined with the immediate is the one before the fetch, which does not touch it (R293, R296, R299). -/
theorem run_logicImmCcr (f : Half → Half → Half) {s : State} (h : wordsReady s 1 = true) :
    run (logicImmCcr f) s = .next ((s.afterWords 1).putCcr (f s.getSr (s.streamWord 0))) := by
  rw [logicImmCcr, run_fetchWord h, run_modify, State.afterWords_getSr]

/-- Settles O48: the immediate forms share one meaning; MOVE to CCR reads its operand and sets the flags; MOVE from SR
reads SR after its operand is resolved, which does not touch it, and writes through the handle without a read. -/
theorem ccrResult : Obligations.CcrResult := by
  intro ea s
  refine ⟨fun h => ⟨run_logicImmCcr (· &&& ·) h, run_logicImmCcr (· ||| ·) h, run_logicImmCcr (· ^^^ ·) h⟩,
    fun h => (run_readEa h).trans (run_modify ..), fun h => ?_⟩
  refine (run_bind_ok (resolve_writable_ok h)).trans ?_
  rw [run_get_bind, eaAfter_getSr]
  exact run_ok (writeH_assign_ok h)

end Sys2Proof.Machine
end

section
/-! SUPPORT. The family Shifts and rotates: one step as a statement about the bits and about the number, repeated by
induction on the count; the sixteen rows through their two shared meanings; then the proofs of ShiftValues and
ShiftResult. -/
namespace Sys2Proof.Machine

/-! ### Repeating a step (R310) -/

section
variable {step : Size → ShiftAcc → ShiftAcc} {sz : Size} {v : Word}

theorem repeatStep_eq_iterate (f : ShiftAcc → ShiftAcc) (k : Nat) (a : ShiftAcc) : repeatStep f k a = f^[k] a := by
  induction k generalizing a with
  | zero => rfl
  | succ k ih => exact ih (f a)

theorem shiftBy_succ (step : Size → ShiftAcc → ShiftAcc) (sz : Size) (k : Nat) (v : Word) (x : Bool) :
    shiftBy step sz (k + 1) v x = step sz (shiftBy step sz k v x) := by
  simp only [shiftBy, repeatStep_eq_iterate, Function.iterate_succ_apply']

theorem trunc_shiftBy (hstep : ∀ a, trunc sz a.v = a.v → trunc sz (step sz a).v = (step sz a).v)
    (h : trunc sz v = v) (k : Nat) (x : Bool) : trunc sz (shiftBy step sz k v x).v = (shiftBy step sz k v x).v := by
  induction k with
  | zero => exact h
  | succ k ih =>
    rw [shiftBy_succ]
    exact hstep _ ih

end

/-! ### The bits of a value of a size, and one step on them (R7, R311, R312) -/

section
variable {sz : Size} {v w : Word} {i : Nat}

theorem sizeBits_pos (sz : Size) : 0 < sizeBits sz := by cases sz <;> decide

theorem sizeBits_le (sz : Size) : sizeBits sz ≤ 32 := by cases sz <;> decide

theorem getLsbD_trunc (sz : Size) (v : Word) (i : Nat) :
    (trunc sz v).getLsbD i = (decide (i < sizeBits sz) && v.getLsbD i) := by
  rw [← BitVec.testBit_toNat, trunc_toNat, Nat.testBit_mod_two_pow, BitVec.testBit_toNat]

theorem getLsbD_eq_false_of_sizeBits_le (h : trunc sz v = v) (hi : sizeBits sz ≤ i) : v.getLsbD i = false := by
  rw [← h, getLsbD_trunc, decide_eq_false (Nat.not_lt.2 hi), Bool.false_and]

theorem eq_of_getLsbD_of_lt_sizeBits (hv : trunc sz v = v) (hw : trunc sz w = w)
    (h : ∀ i < sizeBits sz, v.getLsbD i = w.getLsbD i) : v = w := by
  refine BitVec.eq_of_getLsbD_eq fun i _ => ?_
  obtain hi | hi := Nat.lt_or_ge i (sizeBits sz)
  · exact h i hi
  · rw [getLsbD_eq_false_of_sizeBits_le hv hi, getLsbD_eq_false_of_sizeBits_le hw hi]

theorem getLsbD_shlBit (v : Word) (low : Bool) (hi : i < sizeBits sz) :
    (shlBit sz v low).getLsbD i = if i = 0 then low else v.getLsbD (i - 1) := by
  rw [shlBit, getLsbD_trunc, decide_eq_true hi, Bool.true_and]
  have h32 := hi.trans_le (sizeBits_le sz)
  cases i <;> simp [h32, BitVec.getLsbD_eq_getElem, Nat.lt_of_succ_lt]

theorem getLsbD_shrBit (sz : Size) (v : Word) (high : Bool) (i : Nat) :
    (shrBit sz v high).getLsbD i = (v.getLsbD (i + 1) || (decide (i = sizeBits sz - 1) && high)) := by
  have hpos := sizeBits_pos sz
  have hle := sizeBits_le sz
  obtain hi | rfl | hi := Nat.lt_trichotomy i (sizeBits sz - 1)
  · simp [shrBit, Nat.add_comm 1, hi, hi.ne]
  · simp [shrBit, Nat.add_comm 1, show sizeBits sz - 1 < 32 by omega]
  · simp [shrBit, Nat.add_comm 1, hi.ne', Nat.sub_ne_zero_of_lt hi]

theorem getLsbD_shrBit_of_succ_lt (v : Word) (high : Bool) (hi : i + 1 < sizeBits sz) :
    (shrBit sz v high).getLsbD i = v.getLsbD (i + 1) := by
  simp [getLsbD_shrBit, show i ≠ sizeBits sz - 1 by omega]

theorem msb_shrBit (h : trunc sz v = v) (high : Bool) : msb sz (shrBit sz v high) = high := by
  have hpos := sizeBits_pos sz
  simp [msb, getLsbD_shrBit, getLsbD_eq_false_of_sizeBits_le h (show sizeBits sz ≤ sizeBits sz - 1 + 1 by omega)]

theorem trunc_shlBit (sz : Size) (v : Word) (low : Bool) : trunc sz (shlBit sz v low) = shlBit sz v low :=
  trunc_trunc ..

theorem trunc_shrBit (h : trunc sz v = v) (high : Bool) : trunc sz (shrBit sz v high) = shrBit sz v high := by
  refine BitVec.eq_of_getLsbD_eq fun i _ => ?_
  have hpos := sizeBits_pos sz
  rw [getLsbD_trunc]
  obtain hi | hi := Nat.lt_or_ge i (sizeBits sz)
  · simp [hi]
  · simp [getLsbD_shrBit, Nat.not_lt.2 hi, show i ≠ sizeBits sz - 1 by omega,
      getLsbD_eq_false_of_sizeBits_le h (hi.trans i.le_succ)]

theorem shlBit_false_toNat (sz : Size) (v : Word) : (shlBit sz v false).toNat = v.toNat * 2 % 2 ^ sizeBits sz := by
  have h : 2 ^ sizeBits sz ∣ 2 ^ 32 := pow_dvd_pow 2 (sizeBits_le sz)
  rw [← Nat.mod_mod_of_dvd (v.toNat * 2) h]
  simp [shlBit, trunc_toNat, Nat.shiftLeft_eq]

theorem shrBit_false_toNat (sz : Size) (v : Word) : (shrBit sz v false).toNat = v.toNat / 2 := by
  simp [shrBit, Nat.shiftRight_eq_div_pow]

/-- The bit that comes in stands where the shifted value has none. -/
theorem shrBit_toNat (h : trunc sz v = v) (high : Bool) :
    (shrBit sz v high).toNat = 2 ^ (sizeBits sz - 1) * high.toNat + v.toNat / 2 := by
  have hlt : v.toNat / 2 < 2 ^ (sizeBits sz - 1) := by
    have := toNat_lt_of_trunc_eq h
    have := two_pow_sizeBits sz
    omega
  have hin : ((BitVec.ofBool high).setWidth 32 <<< (sizeBits sz - 1)).toNat = 2 ^ (sizeBits sz - 1) * high.toNat := by
    cases sz <;> cases high <;> rfl
  rw [Nat.two_pow_add_eq_or_of_lt hlt, shrBit, BitVec.toNat_or, hin, BitVec.toNat_ushiftRight,
    Nat.shiftRight_eq_div_pow, Nat.pow_one, Nat.or_comm]

end

/-! ### Rotations: every step reads each bit from its neighbour on a ring (R315 to R318) -/

section
variable {m d k i : Nat}

/-- A step that reads each bit `d` places up the ring reads it `k * d` places up when repeated `k` times. -/
theorem bit_after_ring_steps {step : Size → ShiftAcc → ShiftAcc} {bit : ShiftAcc → Nat → Bool} {sz : Size} {v : Word}
    (hm : 0 < m) (htrunc : ∀ a, trunc sz a.v = a.v → trunc sz (step sz a).v = (step sz a).v)
    (hstep : ∀ a, trunc sz a.v = a.v → ∀ i < m, bit (step sz a) i = bit a ((i + d) % m)) (h : trunc sz v = v) (x : Bool)
    (hi : i < m) : bit (shiftBy step sz k v x) i = bit (shiftBy step sz 0 v x) ((i + k * d) % m) := by
  induction k generalizing i with
  | zero => rw [Nat.zero_mul, Nat.add_zero, Nat.mod_eq_of_lt hi]
  | succ k ih =>
    rw [shiftBy_succ, hstep _ (trunc_shiftBy htrunc h k x) i hi, ih (Nat.mod_lt _ hm), Nat.mod_add_mod, Nat.succ_mul,
      Nat.add_assoc, Nat.add_comm d]

/-- Going down by one is going up by `m - 1`. -/
theorem add_mul_pred_mod (hm : 0 < m) (i k : Nat) : (i + k * (m - 1)) % m = (i + (m - k % m)) % m := by
  refine Nat.ModEq.add_left i (Nat.ModEq.add_right_cancel' (k % m) ?_)
  calc k * (m - 1) + k % m ≡ k * (m - 1) + k [MOD m] := (Nat.mod_modEq k m).add_left _
    _ = m * k := by rw [← Nat.mul_succ, Nat.succ_eq_add_one, Nat.sub_add_cancel hm, Nat.mul_comm]
    _ ≡ m [MOD m] := by simp [Nat.ModEq]
    _ = m - k % m + k % m := (Nat.sub_add_cancel (Nat.mod_lt k hm).le).symm

theorem pred_ring_index (hi : i < m) : (i + (m - 1)) % m = if i = 0 then m - 1 else i - 1 := by
  split
  next h0 => rw [h0, Nat.zero_add, Nat.mod_eq_of_lt (by omega)]
  next h0 => rw [show i + (m - 1) = i - 1 + m by omega, Nat.add_mod_right, Nat.mod_eq_of_lt (by omega)]

theorem succ_ring_index (hi : i < m) : (i + 1) % m = if i + 1 < m then i + 1 else 0 := by
  split
  next hlt => exact Nat.mod_eq_of_lt hlt
  next hge => rw [show i + 1 = m by omega, Nat.mod_self]

end

section
variable {sz : Size} {v : Word} {i : Nat}

theorem getLsbD_rolStep (a : ShiftAcc) (hi : i < sizeBits sz) :
    (rolStep sz a).v.getLsbD i = a.v.getLsbD ((i + (sizeBits sz - 1)) % sizeBits sz) := by
  rw [pred_ring_index hi, rolStep, getLsbD_shlBit _ _ hi, apply_ite a.v.getLsbD]
  rfl

theorem getLsbD_rorStep {a : ShiftAcc} (h : trunc sz a.v = a.v) (hi : i < sizeBits sz) :
    (rorStep sz a).v.getLsbD i = a.v.getLsbD ((i + 1) % sizeBits sz) := by
  rw [succ_ring_index hi, rorStep]
  split
  next hlt => exact getLsbD_shrBit_of_succ_lt _ _ hlt
  next hge =>
    rw [show i = sizeBits sz - 1 by omega]
    exact msb_shrBit h _

/-- The bits of a rotation through X: X is the bit above the top one. -/
def bitWithX (sz : Size) (x : Bool) (v : Word) (i : Nat) : Bool := if i = sizeBits sz then x else v.getLsbD i

theorem bitWithX_top (sz : Size) (x : Bool) (v : Word) : bitWithX sz x v (sizeBits sz) = x := if_pos rfl

theorem bitWithX_of_lt (x : Bool) (v : Word) (hi : i < sizeBits sz) : bitWithX sz x v i = v.getLsbD i := if_neg hi.ne

theorem bitWithX_roxlStep (a : ShiftAcc) (hi : i < sizeBits sz + 1) :
    bitWithX sz (roxlStep sz a).x (roxlStep sz a).v i =
      bitWithX sz a.x a.v ((i + sizeBits sz) % (sizeBits sz + 1)) := by
  have hpos := sizeBits_pos sz
  have hidx := pred_ring_index hi
  rw [Nat.add_sub_cancel] at hidx
  rw [hidx]
  obtain hlt | rfl := Nat.lt_succ_iff_lt_or_eq.1 hi
  · rw [bitWithX_of_lt _ _ hlt, apply_ite (bitWithX sz a.x a.v), bitWithX_top, bitWithX_of_lt _ _ (by omega)]
    exact getLsbD_shlBit _ _ hlt
  · rw [bitWithX_top, if_neg hpos.ne', bitWithX_of_lt _ _ (by omega)]
    rfl

theorem bitWithX_roxrStep {a : ShiftAcc} (h : trunc sz a.v = a.v) (hi : i < sizeBits sz + 1) :
    bitWithX sz (roxrStep sz a).x (roxrStep sz a).v i = bitWithX sz a.x a.v ((i + 1) % (sizeBits sz + 1)) := by
  have hpos := sizeBits_pos sz
  rw [succ_ring_index hi]
  obtain hlt | rfl := Nat.lt_succ_iff_lt_or_eq.1 hi
  · rw [bitWithX_of_lt _ _ hlt, if_pos (Nat.succ_lt_succ hlt)]
    obtain hlt' | heq := Nat.lt_or_eq_of_le (Nat.succ_le_of_lt hlt)
    · rw [bitWithX_of_lt _ _ hlt']
      exact getLsbD_shrBit_of_succ_lt _ _ hlt'
    · rw [show i + 1 = sizeBits sz from heq, bitWithX_top, show i = sizeBits sz - 1 by omega]
      exact msb_shrBit h _
  · rw [bitWithX_top, if_neg (Nat.lt_irrefl _), bitWithX_of_lt _ _ hpos]
    rfl

variable (k : Nat) (x : Bool)

theorem trunc_rol (h : trunc sz v = v) : trunc sz (shiftBy rolStep sz k v x).v = (shiftBy rolStep sz k v x).v :=
  trunc_shiftBy (fun _ _ => trunc_shlBit ..) h k x

theorem trunc_ror (h : trunc sz v = v) : trunc sz (shiftBy rorStep sz k v x).v = (shiftBy rorStep sz k v x).v :=
  trunc_shiftBy (fun _ ha => trunc_shrBit ha _) h k x

theorem trunc_roxl (h : trunc sz v = v) : trunc sz (shiftBy roxlStep sz k v x).v = (shiftBy roxlStep sz k v x).v :=
  trunc_shiftBy (fun _ _ => trunc_shlBit ..) h k x

theorem trunc_roxr (h : trunc sz v = v) : trunc sz (shiftBy roxrStep sz k v x).v = (shiftBy roxrStep sz k v x).v :=
  trunc_shiftBy (fun _ ha => trunc_shrBit ha _) h k x

theorem getLsbD_rol (h : trunc sz v = v) (hi : i < sizeBits sz) : (shiftBy rolStep sz k v x).v.getLsbD i =
    v.getLsbD ((i + (sizeBits sz - k % sizeBits sz)) % sizeBits sz) := by
  rw [← add_mul_pred_mod (sizeBits_pos sz)]
  exact bit_after_ring_steps (bit := fun a => a.v.getLsbD) (sizeBits_pos sz) (fun _ _ => trunc_shlBit ..)
    (fun a _ _ => getLsbD_rolStep a) h x hi

theorem getLsbD_ror (h : trunc sz v = v) (hi : i < sizeBits sz) :
    (shiftBy rorStep sz k v x).v.getLsbD i = v.getLsbD ((i + k) % sizeBits sz) := by
  have hring := bit_after_ring_steps (k := k) (bit := fun a => a.v.getLsbD) (sizeBits_pos sz)
    (fun _ ha => trunc_shrBit ha _) (fun _ ha _ => getLsbD_rorStep ha) h x hi
  rwa [Nat.mul_one] at hring

theorem bitWithX_roxl (h : trunc sz v = v) (hi : i < sizeBits sz + 1) :
    bitWithX sz (shiftBy roxlStep sz k v x).x (shiftBy roxlStep sz k v x).v i =
      bitWithX sz x v ((i + (sizeBits sz + 1 - k % (sizeBits sz + 1))) % (sizeBits sz + 1)) := by
  rw [← add_mul_pred_mod (Nat.succ_pos _)]
  exact bit_after_ring_steps (bit := fun a => bitWithX sz a.x a.v) (Nat.succ_pos _) (fun _ _ => trunc_shlBit ..)
    (fun a _ _ => bitWithX_roxlStep a) h x hi

theorem bitWithX_roxr (h : trunc sz v = v) (hi : i < sizeBits sz + 1) :
    bitWithX sz (shiftBy roxrStep sz k v x).x (shiftBy roxrStep sz k v x).v i =
      bitWithX sz x v ((i + k) % (sizeBits sz + 1)) := by
  have hring := bit_after_ring_steps (k := k) (bit := fun a => bitWithX sz a.x a.v) (Nat.succ_pos _)
    (fun _ ha => trunc_shrBit ha _) (fun _ ha _ => bitWithX_roxrStep ha) h x hi
  rwa [Nat.mul_one] at hring

theorem getLsbD_roxl (h : trunc sz v = v) (hi : i < sizeBits sz) : (shiftBy roxlStep sz k v x).v.getLsbD i =
    bitWithX sz x v ((i + (sizeBits sz + 1 - k % (sizeBits sz + 1))) % (sizeBits sz + 1)) := by
  rw [← bitWithX_roxl k x h (hi.trans (Nat.lt_succ_self _)), bitWithX_of_lt _ _ hi]

theorem getLsbD_roxr (h : trunc sz v = v) (hi : i < sizeBits sz) :
    (shiftBy roxrStep sz k v x).v.getLsbD i = bitWithX sz x v ((i + k) % (sizeBits sz + 1)) := by
  rw [← bitWithX_roxr k x h (hi.trans (Nat.lt_succ_self _)), bitWithX_of_lt _ _ hi]

theorem roxl_x (h : trunc sz v = v) : (shiftBy roxlStep sz k v x).x =
    bitWithX sz x v ((sizeBits sz + (sizeBits sz + 1 - k % (sizeBits sz + 1))) % (sizeBits sz + 1)) := by
  rw [← bitWithX_roxl k x h (Nat.lt_succ_self _), bitWithX_top]

theorem roxr_x (h : trunc sz v = v) :
    (shiftBy roxrStep sz k v x).x = bitWithX sz x v ((sizeBits sz + k) % (sizeBits sz + 1)) := by
  rw [← bitWithX_roxr k x h (Nat.lt_succ_self _), bitWithX_top]

/-! ### Rotations that give the operand back -/

theorem ror_rol (h : trunc sz v = v) : (shiftBy rorStep sz k (shiftBy rolStep sz k v x).v x).v = v := by
  have hrol := trunc_rol k x h
  refine eq_of_getLsbD_of_lt_sizeBits (trunc_ror k x hrol) h fun i hi => ?_
  have hpos := sizeBits_pos sz
  rw [getLsbD_ror k x hrol hi, getLsbD_rol k x h (Nat.mod_lt _ hpos)]
  congr 1
  calc ((i + k) % sizeBits sz + (sizeBits sz - k % sizeBits sz)) % sizeBits sz
    _ = (i + k % sizeBits sz + (sizeBits sz - k % sizeBits sz)) % sizeBits sz := by
        rw [Nat.mod_add_mod, Nat.add_right_comm, Nat.add_right_comm i (k % _), Nat.add_mod_mod]
    _ = (i + sizeBits sz) % sizeBits sz := by
        rw [Nat.add_assoc, Nat.add_sub_cancel' (Nat.mod_lt k hpos).le]
    _ = i := by rw [Nat.add_mod_right, Nat.mod_eq_of_lt hi]

theorem rol_sizeBits (h : trunc sz v = v) : (shiftBy rolStep sz (sizeBits sz) v x).v = v := by
  refine eq_of_getLsbD_of_lt_sizeBits (trunc_rol _ x h) h fun i hi => ?_
  rw [getLsbD_rol _ x h hi, Nat.mod_self, Nat.sub_zero, Nat.add_mod_right, Nat.mod_eq_of_lt hi]

theorem roxl_sizeBits_succ (h : trunc sz v = v) : (shiftBy roxlStep sz (sizeBits sz + 1) v x).v = v := by
  refine eq_of_getLsbD_of_lt_sizeBits (trunc_roxl _ x h) h fun i hi => ?_
  rw [getLsbD_roxl _ x h hi, Nat.mod_self, Nat.sub_zero, Nat.add_mod_right,
    Nat.mod_eq_of_lt (hi.trans (Nat.lt_succ_self _)), bitWithX_of_lt _ _ hi]

theorem roxl_sizeBits_succ_x (h : trunc sz v = v) : (shiftBy roxlStep sz (sizeBits sz + 1) v x).x = x := by
  rw [roxl_x _ x h, Nat.mod_self, Nat.sub_zero, Nat.add_mod_right, Nat.mod_eq_of_lt (Nat.lt_succ_self _), bitWithX_top]

theorem roxr_sizeBits_succ (h : trunc sz v = v) : (shiftBy roxrStep sz (sizeBits sz + 1) v x).v = v := by
  refine eq_of_getLsbD_of_lt_sizeBits (trunc_roxr _ x h) h fun i hi => ?_
  rw [getLsbD_roxr _ x h hi, Nat.add_mod_right, Nat.mod_eq_of_lt (hi.trans (Nat.lt_succ_self _)), bitWithX_of_lt _ _ hi]

theorem roxr_sizeBits_succ_x (h : trunc sz v = v) : (shiftBy roxrStep sz (sizeBits sz + 1) v x).x = x := by
  rw [roxr_x _ x h, Nat.add_mod_right, Nat.mod_eq_of_lt (Nat.lt_succ_self _), bitWithX_top]

end

/-! ### Shifts: the number a step answers, and the bit that leaves (R311 to R314) -/

section
variable {sz : Size} {v : Word} (k : Nat) (x : Bool)

/-- The j-th bit of a value from the top, 0 past the last: what j steps to the left bring to the top. -/
def bitFromTop (sz : Size) (v : Word) (j : Nat) : Bool := decide (j < sizeBits sz) && v.getLsbD (sizeBits sz - 1 - j)

theorem lsl_toNat (h : trunc sz v = v) :
    (shiftBy lslStep sz k v x).v.toNat = v.toNat * 2 ^ k % 2 ^ sizeBits sz := by
  induction k with
  | zero => rw [Nat.pow_zero, Nat.mul_one, Nat.mod_eq_of_lt (toNat_lt_of_trunc_eq h)]; rfl
  | succ k ih => rw [shiftBy_succ, lslStep, shlBit_false_toNat, ih, Nat.mod_mul_mod, Nat.mul_assoc, ← Nat.pow_succ]

theorem asl_eq_lsl (v : Word) : (shiftBy aslStep sz k v x).v = (shiftBy lslStep sz k v x).v := by
  induction k with
  | zero => rfl
  | succ k ih => rw [shiftBy_succ, shiftBy_succ, aslStep, lslStep, ih]

theorem msb_lsl (h : trunc sz v = v) : msb sz (shiftBy lslStep sz k v x).v = bitFromTop sz v k := by
  have hpos := sizeBits_pos sz
  have htop : sizeBits sz - 1 < sizeBits sz := Nat.sub_lt hpos Nat.one_pos
  rw [msb, ← BitVec.testBit_toNat, lsl_toNat k x h, Nat.testBit_mod_two_pow, Nat.testBit_mul_two_pow,
    BitVec.testBit_toNat, decide_eq_true htop, Bool.true_and, bitFromTop]
  congr 2
  exact propext (by omega)

theorem lsl_succ_out (h : trunc sz v = v) : (shiftBy lslStep sz (k + 1) v x).out = bitFromTop sz v k := by
  rw [shiftBy_succ, ← msb_lsl k x h]
  rfl

theorem asl_succ_out (h : trunc sz v = v) : (shiftBy aslStep sz (k + 1) v x).out = bitFromTop sz v k := by
  rw [shiftBy_succ, ← msb_lsl k x h, ← asl_eq_lsl k x v]
  rfl

theorem asl_succ_vf (h : trunc sz v = v) : (shiftBy aslStep sz (k + 1) v x).vf =
    ((shiftBy aslStep sz k v x).vf || (bitFromTop sz v (k + 1) != bitFromTop sz v k)) := by
  rw [← msb_lsl (k + 1) x h, ← msb_lsl k x h, ← asl_eq_lsl, ← asl_eq_lsl, shiftBy_succ]
  rfl

theorem asl_vf_iff (h : trunc sz v = v) :
    (shiftBy aslStep sz k v x).vf = true ↔ ∃ j < k, bitFromTop sz v j ≠ bitFromTop sz v (j + 1) := by
  induction k with
  | zero => simp [shiftBy, repeatStep]
  | succ k ih => rw [asl_succ_vf k x h, Bool.or_eq_true, ih, bne_iff_ne, ne_comm, Nat.exists_lt_succ_right]

theorem lsr_toNat (v : Word) : (shiftBy lsrStep sz k v x).v.toNat = v.toNat / 2 ^ k := by
  induction k with
  | zero => exact (Nat.div_one _).symm
  | succ k ih => rw [shiftBy_succ, lsrStep, shrBit_false_toNat, ih, Nat.div_div_eq_div_mul, ← Nat.pow_succ]

theorem lsr_succ_out (v : Word) : (shiftBy lsrStep sz (k + 1) v x).out = v.getLsbD k := by
  rw [shiftBy_succ, lsrStep, ← BitVec.testBit_toNat, lsr_toNat, Nat.testBit_div_two_pow, Nat.zero_add,
    BitVec.testBit_toNat]

theorem trunc_asr (h : trunc sz v = v) : trunc sz (shiftBy asrStep sz k v x).v = (shiftBy asrStep sz k v x).v :=
  trunc_shiftBy (fun _ ha => trunc_shrBit ha _) h k x

/-- With the sign bit set, half the modulus comes in; that less the modulus is minus half the modulus. -/
theorem signedOf_shrBit_msb (h : trunc sz v = v) : signedOf sz (shrBit sz v (msb sz v)) = signedOf sz v / 2 := by
  have hpow : (2 : Int) ^ sizeBits sz = 2 * 2 ^ (sizeBits sz - 1) := by exact_mod_cast two_pow_sizeBits sz
  rw [signedOf, signedOf, msb_shrBit h, shrBit_toNat h, hpow]
  cases msb sz v with
  | false => simp
  | true =>
    rw [if_pos rfl, if_pos rfl, Bool.toNat_true, Nat.mul_one]
    push_cast
    omega

theorem signedOf_asr (h : trunc sz v = v) : signedOf sz (shiftBy asrStep sz k v x).v = signedOf sz v / 2 ^ k := by
  induction k with
  | zero => exact (Int.ediv_one _).symm
  | succ k ih =>
    rw [shiftBy_succ, asrStep, signedOf_shrBit_msb (trunc_asr k x h), ih, Int.ediv_ediv_of_nonneg (by positivity),
      ← pow_succ]

theorem getLsbD_asr (h : trunc sz v = v) {i : Nat} (hi : i < sizeBits sz) :
    (shiftBy asrStep sz k v x).v.getLsbD i = v.getLsbD (min (i + k) (sizeBits sz - 1)) := by
  induction k generalizing i with
  | zero => rw [Nat.add_zero, Nat.min_eq_left (Nat.le_sub_one_of_lt hi)]; rfl
  | succ k ih =>
    rw [shiftBy_succ, asrStep]
    obtain hlt | heq := Nat.lt_or_eq_of_le (Nat.succ_le_of_lt hi)
    · rw [getLsbD_shrBit_of_succ_lt _ _ hlt, ih hlt, Nat.succ_add_eq_add_succ]
    · have htop : i = sizeBits sz - 1 := by omega
      rw [htop]
      refine (msb_shrBit (trunc_asr k x h) _).trans ((ih (htop ▸ hi)).trans ?_)
      congr 1
      omega

theorem asr_succ_out (h : trunc sz v = v) :
    (shiftBy asrStep sz (k + 1) v x).out = v.getLsbD (min k (sizeBits sz - 1)) := by
  rw [shiftBy_succ, asrStep, getLsbD_asr k x h (sizeBits_pos sz), Nat.zero_add]

theorem rol_succ_out (v : Word) :
    (shiftBy rolStep sz (k + 1) v x).out = (shiftBy rolStep sz (k + 1) v x).v.getLsbD 0 := by
  rw [shiftBy_succ]
  exact (getLsbD_shlBit _ _ (sizeBits_pos sz)).symm

theorem ror_succ_out (h : trunc sz v = v) :
    (shiftBy rorStep sz (k + 1) v x).out = (shiftBy rorStep sz (k + 1) v x).v.getLsbD (sizeBits sz - 1) := by
  rw [shiftBy_succ]
  exact (msb_shrBit (trunc_ror k x h) _).symm

end

/-! ### The flags and the count as the statement names them (R310 to R318) -/

theorem shiftCount_eq (c : ShiftCount) (s : State) : shiftCount c s =
    match c with | .imm q => if q = 0 then 8 else q.val | .reg m => (s.dreg m).toNat % 64 := by
  cases c with
  | imm q => simp only [shiftCount, quickValue, Fin.val_eq_zero_iff]
  | reg m => rfl

section
variable (sz : Size) (k : Nat) (a : ShiftAcc) (old : Ccr)

theorem ccrAsl_eq : ccrAsl sz k a old =
    { x := if k = 0 then old.x else a.out, n := msb sz a.v, z := a.v == 0, v := a.vf,
      c := if k = 0 then false else a.out } := by
  cases k <;> rfl

theorem ccrShift_eq : ccrShift sz k a old =
    { x := if k = 0 then old.x else a.out, n := msb sz a.v, z := a.v == 0, v := false,
      c := if k = 0 then false else a.out } := by
  cases k <;> rfl

theorem ccrRotate_eq : ccrRotate sz k a old =
    { x := old.x, n := msb sz a.v, z := a.v == 0, v := false, c := if k = 0 then false else a.out } := by
  cases k <;> rfl

end

/-- `run_shiftReg` with its count and its flags by name. -/
theorem run_shiftReg_eq {f : Size → ShiftAcc → ShiftAcc} {fl : Size → Nat → ShiftAcc → Ccr → Ccr} {sz : Size}
    {c : ShiftCount} {n : Fin 8} {s : State} {k : Nat} {g : Ccr} (hk : shiftCount c s = k)
    (hg : fl sz k (shiftBy f sz k (trunc sz (s.dreg n)) s.ccr.x) s.ccr = g) : run (shiftReg f fl sz c n) s =
      .next ((s.setDLow sz n (shiftBy f sz k (trunc sz (s.dreg n)) s.ccr.x).v).setCcr g) := by
  subst hk hg
  exact run_shiftReg ..

/-! ### The statements -/

/-- Settles O22: LSL, LSR and ASR by the number one step answers; each rotation by its walk around the ring of its bits;
ASL's V by the two top bits of each step. -/
theorem shiftValues : Obligations.ShiftValues := by
  intro sz k v x h
  refine ⟨⟨lsl_toNat k x h, asl_eq_lsl k x v, lsr_toNat k x v, signedOf_asr k x h, ror_rol k x h, rol_sizeBits x h,
      roxl_sizeBits_succ x h, roxl_sizeBits_succ_x x h, roxr_sizeBits_succ x h, roxr_sizeBits_succ_x x h⟩,
    fun i hi => ⟨getLsbD_rol k x h hi, getLsbD_ror k x h hi, getLsbD_roxl k x h hi, getLsbD_roxr k x h hi⟩,
    roxl_x k x h, roxr_x k x h, fun hk => ?_, asl_vf_iff k x h⟩
  cases k with
  | zero => exact absurd hk (Nat.lt_irrefl 0)
  | succ k =>
    exact ⟨lsl_succ_out k x h, asl_succ_out k x h, lsr_succ_out k x v, asr_succ_out k x h, rol_succ_out k x v,
      ror_succ_out k x h⟩

/-- Settles O43: the register rows are `run_shiftReg` and the memory rows `run_shiftMem` at one step, each with its
flags written out. -/
theorem shiftResult : Obligations.ShiftResult := by
  intro sz c n ea s
  have hk := shiftCount_eq c s
  exact ⟨run_shiftReg_eq hk (ccrAsl_eq ..), run_shiftReg_eq hk (ccrShift_eq ..), run_shiftReg_eq hk (ccrShift_eq ..),
    run_shiftReg_eq hk (ccrShift_eq ..), run_shiftReg_eq hk (ccrRotate_eq ..), run_shiftReg_eq hk (ccrRotate_eq ..),
    run_shiftReg_eq hk rfl, run_shiftReg_eq hk rfl, fun h => ⟨run_shiftMem h, run_shiftMem h, run_shiftMem h,
    run_shiftMem h, run_shiftMem h, run_shiftMem h, run_shiftMem h, run_shiftMem h⟩⟩

end Sys2Proof.Machine
end

section
/-! SUPPORT. The family Bit and BCD instructions: the bit instructions through their two shared meanings; one ending for
the BCD instructions, with valid digits and with any; the proofs of BitResult and BcdResult. -/
namespace Sys2Proof.Machine

/-! ### Bit instructions (R330 to R336) -/

section
variable {n : Fin 8} {cond : Cond} {ea : Ea} {s : State}

theorem run_fetchBitNumber {g : Nat → M Unit} (h : wordsReady s 1 = true) :
    run (fetchBitNumber >>= g) s = run (g ((s.streamWord 0).setWidth 8).toNat) (s.afterWords 1) := by
  rw [BitVec.setWidth_eq_extractLsb' (by decide)]
  exact run_bind_ok (M.bind_ok (fetchWord_ready h))

theorem run_bitTest_static (hw : wordsReady s 1 = true) (h : operandReadable .b ea (s.afterWords 1) = true) :
    run (fetchBitNumber >>= fun b => bitTest b ea) s =
      .next (afterBitTest ((s.streamWord 0).setWidth 8).toNat ea (s.afterWords 1)) :=
  (run_fetchBitNumber hw).trans (run_bitTest h)

theorem run_bitUpdate_static (f : Word → Word → Word) (hw : wordsReady s 1 = true)
    (h : operandWritable .b ea (s.afterWords 1) = true) : run (fetchBitNumber >>= fun b => bitUpdate f b ea) s =
      .next (afterBitUpdate f ((s.streamWord 0).setWidth 8).toNat ea (s.afterWords 1)) :=
  (run_fetchBitNumber hw).trans (run_bitUpdate h)

theorem run_bitTest_dynamic (h : operandReadable .b ea s = true) :
    run (get >>= fun t => bitTest (t.dreg n).toNat ea) s = .next (afterBitTest (s.dreg n).toNat ea s) :=
  (run_get_bind ..).trans (run_bitTest h)

theorem run_bitUpdate_dynamic (f : Word → Word → Word) (h : operandWritable .b ea s = true) :
    run (get >>= fun t => bitUpdate f (t.dreg n).toNat ea) s = .next (afterBitUpdate f (s.dreg n).toNat ea s) :=
  (run_get_bind ..).trans (run_bitUpdate h)

theorem exec_scc (h : operandWritable .b ea s = true) : exec (.scc cond ea) s =
    .next (afterAssign .b ea (if condHolds s.ccr cond then 0xFF else 0x00) s) := by
  refine (run_bind_ok (resolve_writable_ok h)).trans ?_
  rw [run_get_bind, eaAfter_ccr]
  exact run_ok (writeH_assign_ok h)

end

theorem ccrBit_z_iff (v : Word) (k : Nat) (f : Ccr) : (ccrBit v k f).z = true ↔ v.getLsbD k = false := by
  simp only [ccrBit, Bool.not_eq_true']

/-! ### The result and the flags of a BCD instruction (R337, R338) -/

/-- Two decimal digits of value `n` (R337). -/
def IsBcd (r : Byte) (n : Int) : Prop :=
  r.toNat / 16 ≤ 9 ∧ r.toNat % 16 ≤ 9 ∧ (10 * (r.toNat / 16 : Nat) + (r.toNat % 16 : Nat) : Int) = n

theorem bcdOf_toNat (t : Int) : (bcdOf t).toNat = (t % 100).toNat / 10 * 16 + (t % 100).toNat % 10 := by
  simp only [bcdOf, BitVec.toNat_ofNat]
  omega

theorem isBcd_bcdOf (t : Int) : IsBcd ((bcdOf t).setWidth 8) (t % 100) := by
  have hr : ((bcdOf t).setWidth 8).toNat = (t % 100).toNat / 10 * 16 + (t % 100).toNat % 10 := by
    rw [BitVec.toNat_setWidth, bcdOf_toNat]
    omega
  unfold IsBcd
  omega

/-- The result of a BCD instruction is a byte. -/
theorem setWidth_bcdResult (valid : Bool) (t : Int) (free : Half) :
    ((bcdResult valid t free).setWidth 8).setWidth 32 = bcdResult valid t free := by
  refine BitVec.eq_of_toNat_eq ?_
  cases valid with
  | true =>
    have h := bcdOf_toNat t
    simp only [bcdResult, if_true, BitVec.toNat_setWidth]
    omega
  | false => simp [bcdResult]

/-! ### The ending the BCD instructions share -/

/-- What a BCD instruction leaves (R338 to R340): `w` stores the result, `t` is the decimal result before reduction and
its carry. -/
def bcdEnd (w : Word → State) (valid : Bool) (t : Int × Bool) (s : State) : Host.Outcome State Fault Refusal :=
  let r := bcdResult valid t.1 (Config.freeValue s.drawn)
  .next (((w r).setDrawn (s.drawn + 1)).setCcr (ccrBcd valid t.2 r (Config.freeValue s.drawn) s.ccr))

section
variable (f : Int → Int → Int → Int × Bool) {x y : Fin 8} {ea : Ea} {s : State}

theorem run_bcdPair_regs : run (bcdPair f .regs x y) s =
    bcdEnd (s.setDLow .b x) (digitsValid (trunc .b (s.dreg y)) && digitsValid (trunc .b (s.dreg x)))
      (f (bcdVal (trunc .b (s.dreg y))) (bcdVal (trunc .b (s.dreg x))) s.ccr.x.toNat) s := rfl

theorem run_bcdPair_mem (hr : operandReadable .b (.pre y) s = true)
    (hw : operandWritable .b (.pre x) (afterOperand .b (.pre y) s) = true) : run (bcdPair f .mem x y) s =
      let u := afterOperand .b (.pre y) s
      let ms := operandValue .b (.pre y) s
      let md := operandValue .b (.pre x) u
      bcdEnd (fun r => afterUpdate .b (.pre x) r u) (digitsValid ms && digitsValid md)
        (f (bcdVal ms) (bcdVal md) s.ccr.x.toNat) s := by
  rw [bcdPair, run_readEa hr, run_resolveRead hw, run_get_bind, run_drawFree, run_writeFlags_drawn hw]
  simp only [afterOperand_ccr, afterOperand_drawn, bcdEnd]

theorem exec_nbcd (h : operandWritable .b ea s = true) : exec (.nbcd ea) s =
    let v := operandValue .b ea s
    bcdEnd (fun r => afterUpdate .b ea r s) (digitsValid v) (bcdSub (bcdVal v) 0 s.ccr.x.toNat) s := by
  refine (run_resolveRead h).trans ?_
  rw [run_get_bind, run_drawFree, run_writeFlags_drawn h]
  simp only [afterOperand_ccr, afterOperand_drawn, bcdEnd]

variable {w : Word → State} {valid : Bool} {t : Int × Bool} {o : Host.Outcome State Fault Refusal}

/-- With valid digits: the exact result and carry, Z sticky. -/
theorem exists_bcd_of_valid (h : o = bcdEnd w valid t s) (hv : valid = true) :
    ∃ (r : Byte) (fn fv : Bool), IsBcd r (t.1 % 100) ∧
      o = .next (((w (r.setWidth 32)).setDrawn (s.drawn + 1)).setCcr
        { x := t.2, n := fn, z := decide (r = 0) && s.ccr.z, v := fv, c := t.2 }) := by
  subst hv
  let free := Config.freeValue s.drawn
  refine ⟨(bcdOf t.1).setWidth 8, free.getLsbD 11, free.getLsbD 12, isBcd_bcdOf t.1, ?_⟩
  have hb : ((bcdOf t.1).setWidth 8).setWidth 32 = bcdOf t.1 := setWidth_bcdResult true t.1 free
  have hz : decide ((bcdOf t.1).setWidth 8 = 0) = (bcdOf t.1 == 0) :=
    (setWidth_beq_zero (by decide) _).symm.trans (congrArg (· == 0) hb)
  rw [h, hb, hz]
  rfl

/-- With any digits the result is some byte. -/
theorem exists_bcd (h : o = bcdEnd w valid t s) : ∃ (r : Byte) (g : Ccr),
    o = .next (((w (r.setWidth 32)).setDrawn (s.drawn + 1)).setCcr g) := by
  refine ⟨(bcdResult valid t.1 (Config.freeValue s.drawn)).setWidth 8,
    ccrBcd valid t.2 (bcdResult valid t.1 (Config.freeValue s.drawn)) (Config.freeValue s.drawn) s.ccr, ?_⟩
  rw [setWidth_bcdResult]
  exact h

end

/-! ### The statements -/

/-- Settles O44: the operand is tested or updated through its shared meaning, with the bit number taken from the word
after the opcode or from Dn. -/
theorem bitResult : Obligations.BitResult := by
  intro ea n cond s u b bd
  refine ⟨fun v k f => ⟨ccrBit_z_iff v k f, rfl, rfl, rfl, rfl⟩, run_bitTest_static, run_bitTest_dynamic,
    fun hw h => ⟨?_, ?_, ?_⟩, fun h => ⟨?_, ?_, ?_, run_update h, exec_scc h⟩⟩
  · exact run_bitUpdate_static bitChange hw h
  · exact run_bitUpdate_static bitClear hw h
  · exact run_bitUpdate_static bitSet hw h
  · exact run_bitUpdate_dynamic bitChange h
  · exact run_bitUpdate_dynamic bitClear h
  · exact run_bitUpdate_dynamic bitSet h

/-- Settles O45: the register forms, the memory forms and NBCD all end in `bcdEnd`. (The model's
function `bcdResult` has the plain name.) -/
theorem BitBcd.bcdResult : Obligations.BcdResult := by
  intro x y ea s u xin ds dd ms md v digits flags
  refine ⟨fun hs hd => ?_, fun _ => ?_, fun hr hw => ⟨fun hs hd => ?_, fun _ => ?_⟩,
    fun h => ⟨exists_bcd_of_valid (exec_nbcd h), fun _ => exists_bcd (exec_nbcd h)⟩⟩
  · have hexact f := exists_bcd_of_valid (run_bcdPair_regs f) (Bool.and_eq_true_iff.mpr ⟨hs, hd⟩)
    exact ⟨hexact bcdAdd, hexact bcdSub⟩
  · have hfree f := exists_bcd (run_bcdPair_regs f (x := x) (y := y) (s := s))
    exact ⟨hfree bcdAdd, hfree bcdSub⟩
  · have hexact f := exists_bcd_of_valid (run_bcdPair_mem f hr hw) (Bool.and_eq_true_iff.mpr ⟨hs, hd⟩)
    exact ⟨hexact bcdAdd, hexact bcdSub⟩
  · have hfree f := exists_bcd (run_bcdPair_mem f hr hw)
    exact ⟨hfree bcdAdd, hfree bcdSub⟩

end Sys2Proof.Machine
end

section
/-! SUPPORT. The family Program control: a branch by whether it is taken, DBcc by its counter; the ending RTR and RTE
share; the proofs of BranchResult and ReturnResult. -/
namespace Sys2Proof.Machine

/-! ### A run past a displacement, a push or a pop that goes through -/

section
variable {disp : Byte} {sz : Size} {v : Word} {s : State}

theorem run_fetchBranchDisp {g : Word → M Unit} (h : wordsReady s (branchWords disp) = true) :
    run (fetchBranchDisp disp >>= g) s = run (g (branchDisp disp s)) (s.afterWords (branchWords disp)) :=
  run_bind_ok (fetchBranchDisp_ok h)

theorem run_push {g : Unit → M Unit} (h : pushable sz s = true) :
    run (push sz v >>= g) s = run (g ()) (afterPush sz v s) := run_bind_ok (push_ok h)

theorem run_pop {g : Word → M Unit} (h : readable s.config sz (s.areg 7) = true) :
    run (pop sz >>= g) s = run (g (s.loadValue sz (s.areg 7)))
      ((s.afterLoad sz (s.areg 7)).setA 7 (s.areg 7 + BitVec.ofNat 32 (sizeBytes sz))) := run_bind_ok (pop_ok h)

end

/-! ### Branches (R350 to R353) -/

section
variable {cond : Cond} {disp : Byte} {s : State}

theorem exec_bcc (h : wordsReady s (branchWords disp) = true) : exec (.bcc cond disp) s =
    let u := s.afterWords (branchWords disp)
    if condHolds s.ccr cond then .next (afterSetPc (s.pc + branchDisp disp s) u) else .next u := by
  refine (run_get_bind ..).trans ((run_fetchBranchDisp h).trans ?_)
  rw [run_get_bind, run_ite, run_loadPc, run_pure, State.afterWords_ccr]

theorem exec_bra (h : wordsReady s (branchWords disp) = true) : exec (.bra disp) s =
    .next (afterSetPc (s.pc + branchDisp disp s) (s.afterWords (branchWords disp))) :=
  (run_get_bind ..).trans ((run_fetchBranchDisp h).trans (run_loadPc ..))

theorem exec_bsr (h : wordsReady s (branchWords disp) = true) (hp : pushable .l s = true) : exec (.bsr disp) s =
    let u := s.afterWords (branchWords disp)
    .next (afterSetPc (s.pc + branchDisp disp s) (afterPush .l u.pc u)) := by
  have hp' : pushable .l (s.afterWords (branchWords disp)) = true := hp
  refine (run_get_bind ..).trans ((run_fetchBranchDisp h).trans ?_)
  rw [run_get_bind, run_push hp', run_loadPc]

end

/-! ### The counter of DBcc (R354) -/

theorem mergeLow_trunc (sz : Size) (old v : Word) : mergeLow sz old (trunc sz v) = mergeLow sz old v := by
  cases sz with
  | b => rw [mergeLow, mergeLow, trunc]; congr 1; ext i hi; simp [hi, hi.trans_le (by decide : 8 ≤ 32)]
  | w => rw [mergeLow, mergeLow, trunc]; congr 1; ext i hi; simp [hi, hi.trans_le (by decide : 16 ≤ 32)]
  | l => rfl

/-- The counter wraps to -1 exactly where it was 0. -/
theorem trunc_w_pred_eq_iff (v : Word) : trunc .w (v - 1) = 0xFFFF ↔ v.toNat % 65536 = 0 := by
  have hlt := v.isLt
  rw [← BitVec.toNat_inj, trunc_toNat, BitVec.toNat_sub, show (1 : Word).toNat = 1 from rfl,
    show (0xFFFF : Word).toNat = 65535 from rfl]
  simp only [sizeBits]
  omega

theorem exec_dbcc {cond : Cond} {n : Fin 8} {s : State} (h : wordsReady s 1 = true) : exec (.dbcc cond n) s =
    let u := s.afterWords 1
    let v := u.setDLow .w n (s.dreg n - 1)
    if condHolds s.ccr cond then .next u
    else if (s.dreg n).toNat % 65536 = 0 then .next v
    else .next (afterSetPc (s.pc + sextHalf (s.streamWord 0)) v) := by
  have hput : (s.afterWords 1).setDLow .w n (trunc .w (s.dreg n - 1)) =
      (s.afterWords 1).setDLow .w n (s.dreg n - 1) := by
    rw [State.setDLow, mergeLow_trunc, State.setDLow]
  refine (run_get_bind ..).trans ((run_fetchWord h).trans ?_)
  rw [run_get_bind, run_ite, run_get_bind, run_putD, run_ite, run_loadPc, run_pure, run_pure, State.afterWords_ccr,
    State.afterWords_dreg, hput]
  simp only [Bool.not_eq_true', bne_iff_ne, ne_eq, trunc_w_pred_eq_iff, ite_not]
  cases condHolds s.ccr cond <;> rfl

/-! ### The ending RTR and RTE share (R358, R381) -/

/-- A status word and an address are popped; the word goes where `put` says, the stack pointer moved before. -/
theorem run_popStatus {put : Half → State → State} {s : State} (hw : readable s.config .w (s.areg 7) = true)
    (hl : readable s.config .l (s.areg 7 + 2) = true) :
    run (get >>= fun u => memRead .w (u.areg 7) >>= fun w => get >>= fun t => memRead .l (t.areg 7 + 2) >>= fun a =>
      modify (fun s => s.setA 7 (s.areg 7 + 6)) >>= fun _ => modify (fun s => put (w.setWidth 16) s) >>= fun _ =>
      loadPc a) s =
      let u := s.afterLoad .w (s.areg 7)
      .next (afterSetPc (u.loadValue .l (s.areg 7 + 2)) (put ((s.loadValue .w (s.areg 7)).setWidth 16)
        ((u.afterLoad .l (s.areg 7 + 2)).setA 7 (s.areg 7 + 6)))) := by
  rw [run_get_bind, run_memRead hw, run_get_bind, State.afterLoad_areg, run_memRead (by simpa using hl),
    run_modify_bind, run_modify_bind, run_loadPc, State.afterLoad_areg, State.afterLoad_areg]

/-! ### The statements -/

/-- Settles O46: each branch fetches its displacement first, and is then decided by its condition or its counter. -/
theorem branchResult : Obligations.BranchResult := by
  intro cond disp n s w u d cnt v
  refine ⟨fun hw => ⟨fun hc => ?_, fun hc => ?_, exec_bra hw, exec_bsr hw⟩,
    fun hw => ⟨fun hc => ?_, fun hc h0 => ?_, fun hc h0 => ?_⟩, rfl⟩
  · exact (exec_bcc hw).trans (if_pos hc)
  · exact (exec_bcc hw).trans (if_neg (Bool.not_eq_true _ ▸ hc))
  · exact (exec_dbcc hw).trans (if_pos hc)
  · exact (exec_dbcc hw).trans ((if_neg (Bool.not_eq_true _ ▸ hc)).trans (if_pos h0))
  · exact (exec_dbcc hw).trans ((if_neg (Bool.not_eq_true _ ▸ hc)).trans (if_neg h0))

/-- Settles O47: RTS pops an address; RTR and RTE pop a status word and an address in the same way. -/
theorem returnResult : Obligations.ReturnResult := by
  intro s sp u1 sr a u2
  refine ⟨fun h => (run_pop h).trans (run_loadPc ..), fun hw hl => ⟨run_popStatus (put := fun v s => s.putCcr v) hw hl,
    fun hs => ?_⟩⟩
  exact (run_bind_ok (requireSupervisor_ok hs)).trans (run_popStatus (put := fun v s => s.putSr v) hw hl)

end Sys2Proof.Machine
end

section
/-! SUPPORT. The family System control: a privileged instruction is the privilege check and then a body of its own, so
that user mode, supervisor mode and the pending vector are each one argument for all nine; the proofs of
PrivilegedInUserMode, SupervisorResult and TrapResult. -/
namespace Sys2Proof.Machine

/-! ### The privilege check and what follows it (R372 to R381) -/

/-- ANDI, ORI, EORI to SR after the privilege check (R373 to R375). -/
def logicImmSrBody (f : Half → Half → Half) : M Unit :=
  fetchWord >>= fun imm => modify (fun s => s.putSr (f s.getSr imm))

/-- What a privileged instruction does after the privilege check; nothing for RESET (R372 to R375, R377 to R381). -/
def privilegedBody : Instr → M Unit
  | .moveToSr ea => readEa .w ea >>= fun v => modify (fun s => s.putSr (v.setWidth 16))
  | .andiToSr => logicImmSrBody (· &&& ·)
  | .oriToSr => logicImmSrBody (· ||| ·)
  | .eoriToSr => logicImmSrBody (· ^^^ ·)
  | .moveToUsp n => modify (fun s => s.setUsp (s.areg n))
  | .moveFromUsp n => modify (fun s => s.setA n s.usp)
  | .stop => fetchWord >>= fun imm => modify (fun s => s.putSr imm) >>= fun _ => modify (fun s => s.setHalted true)
  | .rte => returnFromException
  | _ => pure ()

section
variable {i : Instr} {s : State}

theorem exec_privileged (h : isPrivileged i = true) (s : State) :
    exec i s = run (requireSupervisor >>= fun _ => privilegedBody i) s := by
  cases i with
  | reset => exact congrArg (run · s) (bind_pure_unit ..).symm
  | moveToSr | andiToSr | oriToSr | eoriToSr | moveToUsp | moveFromUsp | stop | rte => rfl
  | _ => cases h

/-- In user mode the check is all that runs (R376). -/
theorem exec_privileged_user (h : isPrivileged i = true) (hs : s.sup = false) :
    exec i s = .next (afterRaise 8 s.rewindPc) :=
  (exec_privileged h s).trans (run_raised (M.bind_error (requireSupervisor_user hs)))

theorem exec_privileged_supervisor (h : isPrivileged i = true) (hs : s.sup = true) :
    exec i s = run (privilegedBody i) s :=
  (exec_privileged h s).trans (run_bind_ok (requireSupervisor_ok hs))

theorem run_logicImmSrBody (f : Half → Half → Half) (h : wordsReady s 1 = true) :
    run (logicImmSrBody f) s = .next ((s.afterWords 1).putSr (f s.getSr (s.streamWord 0))) := by
  rw [logicImmSrBody, run_fetchWord h, run_modify, State.afterWords_getSr]

end

/-- What the bodies may change: A registers, USP, SR and the STOP state. -/
theorem keeps_privilegedBody {R Q : State → State → Prop} (hS : Stable R Q) (hA : ∀ n v s, R s (s.setA n v))
    (hU : ∀ v s, R s (s.setUsp v)) (hSr : ∀ v s, R s (s.putSr v)) (hH : ∀ s, R s (s.setHalted true)) (i : Instr) :
    Keeps R Q (privilegedBody i) := by
  have hImm (f : Half → Half → Half) : Keeps R Q (logicImmSrBody f) :=
    keeps_bind hS (keeps_fetchWord hS) fun _ => keeps_modify fun s => hSr _ s
  cases i with
  | moveToSr ea => exact keeps_bind hS (keeps_readEa hS fun n _ v s => hA n v s) fun _ => keeps_modify fun s => hSr _ s
  | andiToSr => exact hImm _
  | oriToSr => exact hImm _
  | eoriToSr => exact hImm _
  | moveToUsp n => exact keeps_modify fun s => hU _ s
  | moveFromUsp n => exact keeps_modify fun s => hA n _ s
  | stop =>
    exact keeps_bind hS (keeps_fetchWord hS) fun _ => keeps_bind hS (keeps_modify fun s => hSr _ s) fun _ =>
      keeps_modify hH
  | rte =>
    exact keeps_get_bind fun _ => keeps_bind hS (keeps_memRead hS _ _) fun _ => keeps_get_bind fun _ =>
      keeps_bind hS (keeps_memRead hS _ _) fun _ => keeps_bind hS (keeps_modify fun s => hA 7 _ s) fun _ =>
        keeps_bind hS (keeps_modify fun s => hSr _ s) fun _ => keeps_loadPc hS _
  | _ => exact keeps_pure hS ()

/-! ### Where PrivilegeViolation comes from (R376, R401) -/

/-- From s to t PrivilegeViolation has not become pending. -/
structure NoViolation (s t : State) : Prop where
  config  : t.config = s.config
  pendVec : t.pendVec = 8 → s.pendVec = 8

section
variable {s t u : State}

/-- An update that leaves the pending vector alone. -/
theorem NoViolation.of_eq (hv : t.pendVec = s.pendVec) (hc : t.config = s.config) : NoViolation s t :=
  ⟨hc, hv.symm.trans⟩

theorem NoViolation.trans (h : NoViolation s t) (h' : NoViolation t u) : NoViolation s u :=
  ⟨h'.config.trans h.config, h.pendVec ∘ h'.pendVec⟩

theorem NoViolation.raise {v : BitVec 8} (hv : v ≠ 8) (s : State) : NoViolation s (afterRaise v s) :=
  ⟨State.signal_config _, fun h => absurd ((State.signal_pendVec _).symm.trans h) hv⟩

end

theorem noViolation_stable : Stable NoViolation NoViolation where
  refl _          := .of_eq rfl rfl
  trans _ _ _     := .trans
  before _ _ _    := .trans
  config _ _ h    := h.config
  load _ _ s _    := .of_eq (s.afterLoad_pendVec ..) (s.afterLoad_config ..)
  pc _ _ _        := .of_eq rfl rfl
  addrErr _ _ _ s :=
    ⟨State.signal_config _, fun h => absurd ((State.signal_pendVec _).symm.trans h) (by decide : (3 : BitVec 8) ≠ 8)⟩

theorem trapVector_ne_eight : ∀ k : Fin 16, BitVec.ofNat 8 (32 + k.val) ≠ 8 := by decide

/-- Vector 8 is raised by the privileged instructions alone. -/
theorem raisesVector_ne_eight {i : Instr} {v : BitVec 8} (hi : isPrivileged i = false) (h : v ∈ raisesVector i) :
    v ≠ 8 := by
  unfold raisesVector at h
  split at h
  case h_5 k =>
    rw [List.mem_singleton.mp h]
    exact trapVector_ne_eight k
  case h_7 => simp [hi] at h
  all_goals
    rw [List.mem_singleton.mp h]
    decide

theorem noViolation_allows {i : Instr} (hi : isPrivileged i = false) (s : State) :
    Allows i s NoViolation NoViolation where
  stable              := noViolation_stable
  dreg _ _ _ _        := .of_eq rfl rfl
  areg _ _ _ _        := .of_eq rfl rfl
  store _ _ _ u _ _ _ := .of_eq (u.afterStore_pendVec ..) (u.afterStore_config ..)
  flags _ _ _         := .of_eq rfl rfl
  sr _ v u            := .of_eq (u.putSr_pendVec v) (u.putSr_config v)
  raise _ hv u        := .raise (raisesVector_ne_eight hi hv) u
  usp _ _ _           := .of_eq rfl rfl
  halt _ _            := .of_eq rfl rfl
  drawn _ _ _         := .of_eq rfl rfl

theorem noViolation_privilegedBody (i : Instr) : Keeps NoViolation NoViolation (privilegedBody i) :=
  keeps_privilegedBody noViolation_stable (fun _ _ _ => .of_eq rfl rfl) (fun _ _ => .of_eq rfl rfl)
    (fun v s => .of_eq (s.putSr_pendVec v) (s.putSr_config v)) (fun _ => .of_eq rfl rfl) i

/-- No instruction that is not privileged, and none in supervisor mode, makes PrivilegeViolation pending. -/
theorem exec_noViolation {i : Instr} {s t : State} (hwf : i.wf = true) (hi : isPrivileged i = false ∨ s.sup = true)
    (h : exec i s = .next t) : NoViolation s t := by
  cases hp : isPrivileged i with
  | false => exact (exec_keeps hwf (noViolation_allows hp s) h).elim id id
  | true =>
    have hs : s.sup = true := hi.resolve_left (by simp [hp])
    rw [exec_privileged_supervisor hp hs] at h
    exact (keepsAt_run (noViolation_privilegedBody i s) h).elim id id

/-! ### CHK by its range (R384, R406) -/

theorem exec_chk {ea : Ea} {n : Fin 8} {s : State} (h : operandReadable .w ea s = true) : exec (.chk ea n) s =
    let u := (afterOperand .w ea s).setDrawn (s.drawn + 1)
    let free := Config.freeValue s.drawn
    if signedWord (s.dreg n) < 0 then .next (afterRaise 6 (u.setCcr (ccrChk true free s.ccr)))
    else if signedWord (operandValue .w ea s) < signedWord (s.dreg n) then
      .next (afterRaise 6 (u.setCcr (ccrChk false free s.ccr)))
    else .next (u.setCcr (ccrChk (free.getLsbD 3) free s.ccr)) := by
  have hraise (b : Bool) (free : Half) (u : State) : run (putFlags (ccrChk b free) >>= fun _ => (raise 6 : M Unit)) u =
      .next (afterRaise 6 (u.setCcr (ccrChk b free u.ccr))) := rfl
  refine (run_readEa h).trans ?_
  rw [run_get_bind, run_drawFree, run_ite, run_ite, hraise, hraise, run_putFlags]
  simp only [State.setDrawn_ccr, afterOperand_ccr, afterOperand_dreg, afterOperand_drawn]

/-! ### The statements -/

/-- Settles O11: in user mode the privilege check is all that runs; otherwise `NoViolation`. -/
theorem privilegedInUserMode : Obligations.PrivilegedInUserMode :=
  ⟨fun _ _ => exec_privileged_user, fun _ _ _ hwf hi h => (exec_noViolation hwf hi h).pendVec⟩

/-- Settles O49: in supervisor mode each is its body. -/
theorem supervisorResult : Obligations.SupervisorResult := by
  intro ea n s hs
  have hx {i : Instr} (hi : isPrivileged i = true) : exec i s = run (privilegedBody i) s :=
    exec_privileged_supervisor hi hs
  refine ⟨fun h => (hx rfl).trans ((run_readEa h).trans (run_modify ..)), fun h => ⟨?_, ?_, ?_, ?_⟩, hx rfl, hx rfl,
    hx rfl⟩
  · exact (hx rfl).trans (run_logicImmSrBody (· &&& ·) h)
  · exact (hx rfl).trans (run_logicImmSrBody (· ||| ·) h)
  · exact (hx rfl).trans (run_logicImmSrBody (· ^^^ ·) h)
  · exact (hx rfl).trans (run_fetchWord h)

/-- Settles O50: TRAP and ILLEGAL always raise, TRAPV by V, CHK in the range its register is in. -/
theorem trapResult : Obligations.TrapResult := by
  intro vec ea n s u d bound
  have htrapv : exec .trapv s = if s.ccr.v then .next (afterRaise 7 s) else .next s := by
    refine (run_get_bind ..).trans ?_
    rw [run_ite, run_raise, run_pure]
  refine ⟨rfl, fun hv => htrapv.trans (if_pos hv), fun hv => htrapv.trans (if_neg (by simp [hv])), rfl,
    fun h => ⟨fun hneg => ?_, fun hge hlt => ?_, fun hge hle => ?_⟩⟩
  · exact ⟨_, _, _, (exec_chk h).trans (if_pos hneg)⟩
  · exact ⟨_, _, _, (exec_chk h).trans ((if_neg hge.not_gt).trans (if_pos hlt))⟩
  · exact ⟨_, _, _, _, (exec_chk h).trans ((if_neg hge.not_gt).trans (if_neg hle.not_gt))⟩

end Sys2Proof.Machine
end

section
/-! SUPPORT. The family Exceptions, the delivery: the pushes of a frame in RAM one after the other, the delivery after
either frame as the load of pc from the vector's slot, the odd stack, and RTE in the state delivered; the proofs of
NormalFrame, AddressErrorFrame, FaultInDelivery and RteUndoesDelivery. -/
namespace Sys2Proof.Machine

/-! ### The delivery as a transition (R425, R426) -/

section
variable {v : BitVec 8} {l : Option (BitVec 3)} {s t : State}

theorem deliverAs_of_ok (h : deliver v l s = .ok () t) : deliverAs v l s = .next t := by
  simp only [deliverAs, h]

theorem deliverAs_of_raised (h : deliver v l s = .error .raised t) :
    deliverAs v l s = if v = 3 then .fault .doubleFault else .next t := by
  simp only [deliverAs, h]

/-- A delivery that comes down to loading pc: an odd handler address is an AddressError of its own. -/
theorem deliverAs_of_loadPc {a : Word} (h : deliver v l s = loadPc a t) : deliverAs v l s =
    if isOdd a then if v = 3 then .fault .doubleFault else .next (afterAddressError a .read .instruction t)
    else .next (t.setPc a) := by
  cases ha : isOdd a with
  | false => exact deliverAs_of_ok (h.trans (loadPc_even ha))
  | true => exact deliverAs_of_raised (h.trans (loadPc_odd ha))

end

/-! ### The six-byte frame in RAM (R420 to R422) -/

@[simp] theorem State.enterHandler_ssp (l : Option (BitVec 3)) (s : State) : (s.enterHandler l).ssp = s.ssp := by
  cases l <;> simp [State.enterHandler, State.switchMode_ssp]

/-- A write at this address goes through and stores to RAM. -/
def ramWritable (c : Config) (sz : Size) (a : Word) : Bool := inRam c sz a && guardFree c (busAddr c a)

/-- The supervisor stack is even and takes the six-byte frame in RAM. -/
structure FrameInRam (s : State) : Prop where
  even : isOdd (frameBase s) = false
  pc   : ramWritable s.config .l (frameBase s - 4) = true
  sr   : ramWritable s.config .w (frameBase s - 6) = true

theorem FrameInRam.of_inRam {s : State} (heven : isOdd (frameBase s) = false)
    (hpc : inRam s.config .l (frameBase s - 4) = true)
    (hpcGuard : guardFree s.config (busAddr s.config (frameBase s - 4)) = true)
    (hsr : inRam s.config .w (frameBase s - 6) = true)
    (hsrGuard : guardFree s.config (busAddr s.config (frameBase s - 6)) = true) : FrameInRam s :=
  ⟨heven, Bool.and_eq_true_iff.mpr ⟨hpc, hpcGuard⟩, Bool.and_eq_true_iff.mpr ⟨hsr, hsrGuard⟩⟩

section
variable {v : BitVec 8} {l : Option (BitVec 3)} {s : State}

/-- The delivery pushes the six-byte frame and goes on from there. -/
theorem deliver_of_frameInRam (v : BitVec 8) (l : Option (BitVec 3)) (hf : FrameInRam s) : deliver v l s =
    ((if v = 3 then pushBadAccess else pure ()) >>= fun _ => memRead .l (vectorSlot v) >>= loadPc) (afterFrame l s) := by
  obtain ⟨heven, hpc, hsr⟩ := hf
  obtain ⟨hpc, hpcGuard⟩ := Bool.and_eq_true_iff.mp hpc
  obtain ⟨hsr, hsrGuard⟩ := Bool.and_eq_true_iff.mp hsr
  exact deliver_ram v l s heven hpc hpcGuard hsr hsrGuard

/-- After the six-byte frame the delivery loads pc from the vector's slot. -/
theorem deliver_frame (hf : FrameInRam s) (hv : v ≠ 3) (hslot : inRam s.config .l (vectorSlot v) = true) :
    deliver v l s = loadPc (Memory.load (frameMemory s) .l (busAddr s.config (vectorSlot v))) (afterFrame l s) := by
  rw [deliver_of_frameInRam v l hf, if_neg hv, M.pure_bind]
  have hr := memRead_ram (s := afterFrame l s) (sz := .l) (a := vectorSlot v) (by rwa [afterFrame_config])
    (by simp [aligned, isOdd_vectorSlot])
  rw [afterFrame_config, afterFrame_mem] at hr
  exact M.bind_ok hr

theorem deliverAs_frame_even (hf : FrameInRam s) (hv : v ≠ 3) (hslot : inRam s.config .l (vectorSlot v) = true)
    (ha : isOdd (Memory.load (frameMemory s) .l (busAddr s.config (vectorSlot v))) = false) : deliverAs v l s =
      .next ((afterFrame l s).setPc (Memory.load (frameMemory s) .l (busAddr s.config (vectorSlot v)))) :=
  (deliverAs_of_loadPc (deliver_frame hf hv hslot)).trans (if_neg (Bool.not_eq_true _ ▸ ha))

theorem deliverAs_frame_odd (hf : FrameInRam s) (hv : v ≠ 3) (hslot : inRam s.config .l (vectorSlot v) = true)
    (ha : isOdd (Memory.load (frameMemory s) .l (busAddr s.config (vectorSlot v))) = true) : deliverAs v l s =
      .next (afterAddressError (Memory.load (frameMemory s) .l (busAddr s.config (vectorSlot v))) .read .instruction
        (afterFrame l s)) :=
  (deliverAs_of_loadPc (deliver_frame hf hv hslot)).trans ((if_pos ha).trans (if_neg hv))

end

/-! ### The fourteen-byte frame in RAM (R423) -/

/-- One more push on a stack in RAM. -/
theorem push_ram_again {u : State} {sz : Size} {v sp sp' : Word} {m : List Host.Cell}
    (hsp : sp' = sp - BitVec.ofNat 32 (sizeBytes sz)) (h : ramWritable u.config sz sp' = true)
    (ha : isOdd sp' = false) : push sz v ((u.setA 7 sp).setMem m) =
      .ok () ((u.setA 7 sp').setMem (Memory.store m sz (busAddr u.config sp') v)) := by
  obtain ⟨hram, hg⟩ := Bool.and_eq_true_iff.mp h
  rw [push_ram (s := (u.setA 7 sp).setMem m) (by rw [State.setMem_areg, State.setA_areg_same, hsp]) hram ha hg]
  show EStateM.Result.ok () (((u.setA 7 sp).setA 7 sp').setMem _) = _
  rw [State.setA_setA]
  rfl

/-- The status word of the frame: 16 for a read, 4 for supervisor origin, 2 or 1 for the context. -/
def badStatusWord (s : State) : Word :=
  (if s.badDir = .read then 16 else 0) + (if s.badS then 4 else 0) + (if s.badCtx = .instruction then 2 else 1)

theorem State.badStatus_setWidth (s : State) : s.badStatus.setWidth 32 = badStatusWord s := by
  unfold State.badStatus badStatusWord
  cases s.badDir <;> cases s.badS <;> cases s.badCtx <;> rfl

/-- Memory after the fourteen-byte frame has been pushed. -/
def badFrameMemory (s : State) : List Host.Cell :=
  Memory.store (Memory.store (Memory.store (frameMemory s) .w (busAddr s.config (frameBase s - 8)) (s.ir.setWidth 32))
    .l (busAddr s.config (frameBase s - 12)) s.badAddr) .w (busAddr s.config (frameBase s - 14)) (badStatusWord s)

/-- The state after the fourteen-byte frame has been pushed. -/
def afterBadFrame (l : Option (BitVec 3)) (s : State) : State :=
  ((s.enterHandler l).setA 7 (frameBase s - 14)).setMem (badFrameMemory s)

/-- The supervisor stack is even and takes the fourteen-byte frame in RAM. -/
structure BadFrameInRam (s : State) : Prop extends FrameInRam s where
  ir     : ramWritable s.config .w (frameBase s - 8) = true
  addr   : ramWritable s.config .l (frameBase s - 12) = true
  status : ramWritable s.config .w (frameBase s - 14) = true

section
variable {l : Option (BitVec 3)} {s : State}

theorem pushBadAccess_ram (hf : BadFrameInRam s) : pushBadAccess (afterFrame l s) = .ok () (afterBadFrame l s) := by
  have hodd (k : Word) (hk : k.toNat % 2 = 0) : isOdd (frameBase s - k) = false := (isOdd_sub_even hk).trans hf.even
  have hc : (s.enterHandler l).config = s.config := State.enterHandler_config l s
  have hpushIr (v m) := push_ram_again (v := v) (m := m) (sp := frameBase s - 6) (sp' := frameBase s - 8)
    (by rw [BitVec.sub_sub]; rfl) (hc.symm ▸ hf.ir) (hodd 8 rfl)
  have hpushAddr (v m) := push_ram_again (v := v) (m := m) (sp := frameBase s - 8) (sp' := frameBase s - 12)
    (by rw [BitVec.sub_sub]; rfl) (hc.symm ▸ hf.addr) (hodd 12 rfl)
  have hpushStatus (v m) := push_ram_again (v := v) (m := m) (sp := frameBase s - 12) (sp' := frameBase s - 14)
    (by rw [BitVec.sub_sub]; rfl) (hc.symm ▸ hf.status) (hodd 14 rfl)
  unfold pushBadAccess afterFrame
  rw [M.get_bind, M.bind_ok (hpushIr ..), M.get_bind, M.bind_ok (hpushAddr ..), M.get_bind, hpushStatus]
  have hstatus (w : Word) (m : List Host.Cell) :
      (((s.enterHandler l).setA 7 w).setMem m).badStatus.setWidth 32 = badStatusWord s := by
    rw [← State.badStatus_setWidth]
    simp [State.badStatus]
  simp only [State.setMem_ir, State.setA_ir, State.setMem_badAddr, State.setA_badAddr, hstatus, hc,
    State.enterHandler_ir, State.enterHandler_badAddr, afterBadFrame, badFrameMemory]

/-- After the fourteen-byte frame the delivery loads pc from slot 3. -/
theorem deliver_badFrame (hf : BadFrameInRam s) (hslot : inRam s.config .l 12 = true) :
    deliver 3 l s = loadPc (Memory.load (badFrameMemory s) .l (busAddr s.config 12)) (afterBadFrame l s) := by
  have hc : (afterBadFrame l s).config = s.config := State.enterHandler_config l s
  rw [deliver_of_frameInRam 3 l hf.toFrameInRam, if_pos rfl, M.bind_ok (pushBadAccess_ram hf)]
  have hr := memRead_ram (s := afterBadFrame l s) (sz := .l) (a := vectorSlot 3) (hc.symm ▸ hslot) rfl
  rw [hc] at hr
  exact M.bind_ok hr

end

/-! ### An odd supervisor stack (R425) -/

theorem deliver_oddStack (v : BitVec 8) (l : Option (BitVec 3)) {s : State} (hf : s.config.dataAlignFault = true)
    (hodd : isOdd (frameBase s) = true) : deliver v l s = .error .raised
      (afterAddressError (frameBase s - 4) .write .data ((s.enterHandler l).setA 7 (frameBase s - 4))) := by
  have hal : aligned .l (frameBase s - 4) = false := by simp [aligned, isOdd_sub_even, hodd]
  have hpush : push .l (s.enterHandler l).pc (s.enterHandler l) = .error .raised
      (afterAddressError (frameBase s - 4) .write .data ((s.enterHandler l).setA 7 (frameBase s - 4))) := by
    unfold push
    rw [M.modify_bind, M.get_bind, State.setA_areg_same, State.enterHandler_areg_seven]
    exact memWrite_misaligned hal ((State.enterHandler_config l s).symm ▸ hf)
  unfold deliver
  rw [M.get_bind, M.modify_bind, M.get_bind, M.bind_error hpush]

/-! ### RTE in the state delivered (R381, R429) -/

/-- On a bus of three bits or more the word of SR does not overlap the long of pc above it. -/
theorem busAddr_frame_disjoint {c : Config} {sp : Word} (hn : 3 ≤ c.addrBits)
    (hw : busAddr c (sp - 6) + 2 ≤ 2 ^ c.addrBits) :
    busAddr c (sp - 4) + 4 ≤ busAddr c (sp - 6) ∨ busAddr c (sp - 6) + 2 ≤ busAddr c (sp - 4) := by
  have h8 : 2 ^ 3 ≤ 2 ^ c.addrBits := Nat.pow_le_pow_right Nat.two_pos hn
  have hx := (sp - 6).isLt
  have hsp : (sp - 4).toNat = ((sp - 6).toNat + 2) % 2 ^ 32 := by
    rw [show sp - 4 = sp - 6 + 2 by bv_omega]
    exact BitVec.toNat_add ..
  unfold busAddr at hw ⊢
  rw [hsp]
  rcases Nat.le_total c.addrBits 32 with hle | hge
  · rw [Nat.mod_mod_of_dvd _ (pow_dvd_pow 2 hle), ← Nat.mod_add_mod]
    rcases hw.lt_or_eq with hlt | heq
    · exact .inr (Nat.mod_eq_of_lt hlt).ge
    · rw [heq, Nat.mod_self]
      omega
  · have h32 : 2 ^ 32 ≤ 2 ^ c.addrBits := Nat.pow_le_pow_right Nat.two_pos hge
    rw [Nat.mod_eq_of_lt (hx.trans_le h32), Nat.mod_eq_of_lt ((Nat.mod_lt _ (by decide)).trans_le h32)]
    omega

theorem frameMemory_sr (s : State) :
    (Memory.load (frameMemory s) .w (busAddr s.config (frameBase s - 6))).setWidth 16 = s.getSr := by
  rw [frameMemory, Memory.load_store, trunc, BitVec.setWidth_setWidth_of_le _ (by decide), BitVec.setWidth_eq,
    BitVec.setWidth_setWidth_of_le _ (by decide), BitVec.setWidth_eq]

theorem frameMemory_pc {s : State} (hn : 3 ≤ s.config.addrBits)
    (hsr : inRam s.config .w (frameBase s - 6) = true) :
    Memory.load (frameMemory s) .l (busAddr s.config (frameBase s - 4)) = s.pc := by
  have htop : busAddr s.config (frameBase s - 6) + 2 ≤ 2 ^ s.config.addrBits := by
    simp only [inRam, oneRegion, Bool.and_eq_true, decide_eq_true_eq] at hsr
    exact hsr.1.1
  rw [frameMemory, Memory.load_store_outside _ _ _ _ _ _ (busAddr_frame_disjoint hn htop), Memory.load_store]
  rfl

/-- SetSR with a value of GetSR gives that value back. -/
theorem State.getSr_putSr_getSr (t s : State) : (t.putSr s.getSr).getSr = s.getSr := by
  rw [State.getSr_putSr]
  refine BitVec.eq_of_getLsbD_eq fun k hk => ?_
  rw [BitVec.getLsbD_and, State.getSr_bit s k hk]
  interval_cases k <;> simp

/-- RTE with the six-byte frame of s on its stack in RAM. -/
theorem exec_rte_frame {s t : State} (hn : 3 ≤ s.config.addrBits) (hf : FrameInRam s) (hpc : isOdd s.pc = false)
    (hs : t.sup = true) (hsp : t.areg 7 = frameBase s - 6) (hm : t.mem = frameMemory s) (hc : t.config = s.config) :
    exec .rte t = .next (((t.setA 7 (frameBase s)).putSr s.getSr).setPc s.pc) := by
  obtain ⟨heven, hpcRam, hsrRam⟩ := hf
  have hpcRam := (Bool.and_eq_true_iff.mp hpcRam).1
  have hsrRam := (Bool.and_eq_true_iff.mp hsrRam).1
  have h2 : frameBase s - 6 + 2 = frameBase s - 4 := by bv_omega
  have h6 : frameBase s - 6 + 6 = frameBase s := by bv_omega
  have hal (sz : Size) (k : Word) (hk : k.toNat % 2 = 0) : aligned sz (frameBase s - k) = true := by
    simp [aligned, isOdd_sub_even hk, heven]
  have hw := memRead_ram (s := t) (hc.symm ▸ hsrRam) (hal .w 6 rfl)
  have hl := memRead_ram (s := t) (hc.symm ▸ hpcRam) (hal .l 4 rfl)
  rw [hm, hc] at hw hl
  rw [frameMemory_pc hn hsrRam] at hl
  rw [exec_privileged_supervisor rfl hs]
  refine (run_get_bind ..).trans ?_
  rw [hsp, run_bind_ok hw, run_get_bind, hsp, h2, run_bind_ok hl, run_modify_bind, run_modify_bind, hsp, h6,
    frameMemory_sr, run_ok (loadPc_even hpc)]

/-- Taking SR back from the frame undoes what entering the handler did to A7 and to the shadow of the mode not
running. -/
theorem putSr_enterHandler (l : Option (BitVec 3)) {s t : State} (hs : t.sup = true) (h7 : t.areg 7 = frameBase s)
    (husp : t.usp = (s.enterHandler l).usp) :
    (t.putSr s.getSr).areg 7 = s.areg 7 ∧ (s.sup = true → (t.putSr s.getSr).usp = s.usp) ∧
      (s.sup = false → (t.putSr s.getSr).ssp = s.ssp) := by
  have hbit : s.getSr.getLsbD 13 = s.sup := s.getSr_bit 13 (by decide)
  rw [State.enterHandler_usp] at husp
  cases hm : s.sup with
  | true =>
    obtain ⟨ha, hu, -⟩ := putSr_sameMode (v := s.getSr) (hbit.trans (hm.trans hs.symm))
    simp only [hm, frameBase, if_true] at h7 husp
    refine ⟨(congrArg (·.get 7) ha).trans h7, fun _ => hu.trans husp, nofun⟩
  | false =>
    obtain ⟨hS, ha, -⟩ := putSr_toUser (v := s.getSr) hs (hbit.trans hm)
    simp only [hm, frameBase, Bool.false_eq_true, if_false] at h7 husp
    exact ⟨ha.trans husp, nofun, fun _ => hS.trans h7⟩

/-! ### The statements -/

/-- Settles O12: after the six-byte frame pc is loaded from the slot, and entering the handler changes the rest. -/
theorem normalFrame : Obligations.NormalFrame := by
  intro v l s hv sp slot heven hpc hpcGuard hsr hsrGuard hslot m ha
  have hf : FrameInRam s := .of_inRam heven hpc hpcGuard hsr hsrGuard
  refine ⟨_, deliverAs_frame_even hf hv hslot ha, rfl, rfl, afterFrame_areg_seven l s, ?_⟩
  simp +contextual [afterFrame, State.enterHandler_imask, State.enterHandler_usp, State.setA_areg_other,
    State.enterHandler_areg_other]

/-- Settles O13: three more pushes below the six-byte frame, then pc from slot 3. -/
theorem addressErrorFrame : Obligations.AddressErrorFrame := by
  intro s sp c ok heven hpc hsr hir haddr hstatus hslot status m1 m ha
  have hf : BadFrameInRam s := ⟨⟨heven, hpc, hsr⟩, hir, haddr, hstatus⟩
  refine ⟨_, (deliverAs_of_loadPc (deliver_badFrame hf hslot)).trans (if_neg (Bool.not_eq_true _ ▸ ha)), rfl, rfl, ?_⟩
  simp [afterBadFrame, State.enterHandler_imask, sp]

/-- Settles O14: the first push stops on an odd stack, the load of pc on an odd handler address; the delivery of
vector 3 turns either raise into the model fault. -/
theorem faultInDelivery : Obligations.FaultInDelivery := by
  refine ⟨fun v l s hv hf hodd => ?_, fun l s hf hodd => ?_, ?_, ?_⟩
  · refine ⟨_, (deliverAs_of_raised (deliver_oddStack v l hf hodd)).trans (if_neg hv), ?_⟩
    simp [afterAddressError]
  · exact (deliverAs_of_raised (deliver_oddStack 3 l hf hodd)).trans (if_pos rfl)
  · intro v l s sp slot m hv heven hpc hpcGuard hsr hsrGuard hslot ha
    have hf : FrameInRam s := .of_inRam heven hpc hpcGuard hsr hsrGuard
    refine ⟨_, deliverAs_frame_odd hf hv hslot ha, ?_⟩
    simp [afterAddressError, frameMemory, vectorSlot, m, sp, slot]
  · intro l s sp c ok heven hpc hsr hir haddr hstatus hslot status m1 m ha
    have hf : BadFrameInRam s := ⟨⟨heven, hpc, hsr⟩, hir, haddr, hstatus⟩
    exact (deliverAs_of_loadPc (deliver_badFrame hf hslot)).trans ((if_pos ha).trans (if_pos rfl))

/-- Settles O15: RTE reads back the SR and pc that were pushed, which do not overlap; SetSR then swaps the stack
pointers back. -/
theorem rteUndoesDelivery : Obligations.RteUndoesDelivery := by
  intro v l s hv sp slot m hn hpcEven heven hpc hpcGuard hsr hsrGuard hslot ha
  have hf : FrameInRam s := .of_inRam heven hpc hpcGuard hsr hsrGuard
  let t := (afterFrame l s).setPc (Memory.load m .l (busAddr s.config slot))
  have hrte : exec .rte t = _ := exec_rte_frame hn hf hpcEven (afterFrame_sup l s) (afterFrame_areg_seven l s)
    (afterFrame_mem l s) (afterFrame_config l s)
  obtain ⟨h7, husp, hssp⟩ := putSr_enterHandler l (t := t.setA 7 (frameBase s)) (afterFrame_sup l s)
    (State.setA_areg_same ..) rfl
  refine ⟨t, _, deliverAs_frame_even hf hv hslot ha, hrte, rfl, State.getSr_putSr_getSr .., fun n => ?_, fun n => ?_,
    husp, hssp⟩
  · simp [t, afterFrame, State.dreg]
  · by_cases h : n = 7
    · rw [h]
      exact h7
    · refine (putSr_areg_other h).trans ((State.setA_areg_other _ _ h).trans ?_)
      exact (State.setA_areg_other _ _ h).trans (State.enterHandler_areg_other l s h)

end Sys2Proof.Machine
end

section
/-! SUPPORT. The family Exceptions, the registers a raise writes: what an instruction does to the pending vector, the
bad-access registers and the signal, as two relations put into `exec_keeps`; a word with no row; the proofs of
ExceptionRegisters and StepIllegalWord. -/
namespace Sys2Proof.Machine

/-! ### Left or signalled (R188) -/

/-- The budget pair and the attention flag are as in u. -/
def BudgetAs (u t : State) : Prop :=
  t.budget = u.budget ∧ t.budgetSaved = u.budgetSaved ∧ t.attention = u.attention

/-- From s to t the budget pair and the attention flag are left or signalled. -/
def Signalled (s t : State) : Prop := BudgetAs s t ∨ BudgetAs s.signal t

theorem BudgetAs.trans {s t u : State} (h : BudgetAs s t) (h' : BudgetAs t u) : BudgetAs s u := by
  obtain ⟨hb, hs, ha⟩ := h
  obtain ⟨hb', hs', ha'⟩ := h'
  exact ⟨hb'.trans hb, hs'.trans hs, ha'.trans ha⟩

/-- A signal depends on the budget pair alone. -/
theorem BudgetAs.signal {s t : State} (h : BudgetAs s t) : BudgetAs s.signal t.signal := by
  obtain ⟨hb, hs, -⟩ := h
  simp [BudgetAs, State.signal_eq, hb, hs]

/-- After one signal the budget is 0, and another changes nothing. -/
theorem BudgetAs.signal_signal (s : State) : BudgetAs s.signal s.signal.signal := by
  simp [BudgetAs, State.signal_eq]

theorem State.signal_attention (s : State) : s.signal.attention = true := by rw [State.signal_eq]; rfl

theorem Signalled.refl (s : State) : Signalled s s := .inl ⟨rfl, rfl, rfl⟩

theorem Signalled.trans {s t u : State} (h : Signalled s t) (h' : Signalled t u) : Signalled s u := by
  rcases h with h | h <;> rcases h' with h' | h'
  · exact .inl (h.trans h')
  · exact .inr (h.signal.trans h')
  · exact .inr (h.trans h')
  · exact .inr ((BudgetAs.signal_signal s).trans (h.signal.trans h'))

/-- A device signals where its handler raises an interrupt. -/
theorem State.deviceEvent_signalled (s : State) (ev : DevEvent) : Signalled s (s.deviceEvent ev) := by
  unfold State.deviceEvent
  dsimp only
  split
  · exact .refl s
  · exact .inr (BudgetAs.signal (s := s) ⟨rfl, rfl, rfl⟩)

theorem State.afterLoad_signalled (s : State) (sz : Size) (a : Word) : Signalled s (s.afterLoad sz a) := by
  unfold State.afterLoad
  dsimp only
  split
  · exact s.deviceEvent_signalled _
  · exact .refl s

theorem State.afterStore_signalled (s : State) (sz : Size) (a v : Word) : Signalled s (s.afterStore sz a v) := by
  unfold State.afterStore
  dsimp only
  split
  · exact .refl s
  · exact .refl s
  · exact s.deviceEvent_signalled _

/-! ### The pending vector and the bad-access registers (R401, R402) -/

/-- The pending vector and the registers of the last bad access. -/
def faultRegs (s : State) : BitVec 8 × Word × Dir × Bool × AccessCtx :=
  (s.pendVec, s.badAddr, s.badDir, s.badS, s.badCtx)

/-- From s to t nothing was raised. -/
structure NothingRaised (s t : State) : Prop where
  config : t.config = s.config
  regs   : faultRegs t = faultRegs s
  signal : Signalled s t

/-- From s to t a vector of L or AddressError was raised, or nothing; the bad-access registers changed only with
AddressError. -/
structure RaisedOf (L : List (BitVec 8)) (s t : State) : Prop where
  pendVec : t.pendVec = s.pendVec ∨ t.pendVec = 3 ∨ t.pendVec ∈ L
  bad     : t.pendVec ≠ 3 → t.badAddr = s.badAddr ∧ t.badDir = s.badDir ∧ t.badS = s.badS ∧ t.badCtx = s.badCtx
  signal  : Signalled s t

section
variable {L : List (BitVec 8)} {s t u : State}

theorem NothingRaised.trans (h : NothingRaised s t) (h' : NothingRaised t u) : NothingRaised s u :=
  ⟨h'.config.trans h.config, h'.regs.trans h.regs, h.signal.trans h'.signal⟩

theorem NothingRaised.raisedOf (h : NothingRaised s t) : RaisedOf L s t := by
  obtain ⟨-, hregs, hsignal⟩ := h
  simp only [faultRegs, Prod.mk.injEq] at hregs
  obtain ⟨hv, hbad⟩ := hregs
  exact ⟨.inl hv, fun _ => hbad, hsignal⟩

theorem NothingRaised.before (h : NothingRaised s t) (h' : RaisedOf L t u) : RaisedOf L s u := by
  obtain ⟨-, hregs, hsignal⟩ := h
  simp only [faultRegs, Prod.mk.injEq] at hregs
  obtain ⟨hv, ha, hd, hs, hc⟩ := hregs
  refine ⟨h'.pendVec.imp_left fun e => e.trans hv, fun h3 => ?_, hsignal.trans h'.signal⟩
  obtain ⟨ha', hd', hs', hc'⟩ := h'.bad h3
  exact ⟨ha'.trans ha, hd'.trans hd, hs'.trans hs, hc'.trans hc⟩

theorem RaisedOf.raise {v : BitVec 8} (hv : v ∈ L) (s : State) : RaisedOf L s (afterRaise v s) :=
  ⟨.inr (.inr (by simpa [afterRaise] using hv)), fun _ => by simp [afterRaise], .inr (BudgetAs.signal ⟨rfl, rfl, rfl⟩)⟩

theorem RaisedOf.addressError (a : Word) (d : Dir) (c : AccessCtx) (s : State) :
    RaisedOf L s (afterAddressError a d c s) :=
  have h3 : (afterAddressError a d c s).pendVec = 3 := State.signal_pendVec _
  ⟨.inr (.inl h3), fun h => absurd h3 h, .inr (BudgetAs.signal ⟨rfl, rfl, rfl⟩)⟩

end

theorem raised_stable (L : List (BitVec 8)) : Stable NothingRaised (RaisedOf L) where
  refl s          := ⟨rfl, rfl, .refl s⟩
  trans _ _ _     := .trans
  before _ _ _    := NothingRaised.before
  config _ _ h    := h.config
  load sz a s _   := ⟨s.afterLoad_config .., by simp [faultRegs], s.afterLoad_signalled sz a⟩
  pc _ s _        := ⟨rfl, rfl, .refl s⟩
  addrErr a d c s := .addressError a d c s

theorem raised_allows (i : Instr) (s : State) : Allows i s NothingRaised (RaisedOf (raisesVector i)) where
  stable               := raised_stable _
  dreg _ _ _ u         := ⟨rfl, rfl, .refl u⟩
  areg _ _ _ u         := ⟨rfl, rfl, .refl u⟩
  store sz a v u _ _ _ := ⟨u.afterStore_config .., by simp [faultRegs], u.afterStore_signalled sz a v⟩
  flags _ u _          := ⟨rfl, rfl, .refl u⟩
  sr _ v u             := ⟨u.putSr_config v, by simp [faultRegs],
    .inl ⟨u.putSr_budget v, u.putSr_budgetSaved v, u.putSr_attention v⟩⟩
  raise _ hv u         := .raise hv u
  usp _ _ u            := ⟨rfl, rfl, .refl u⟩
  halt _ u             := ⟨rfl, rfl, .refl u⟩
  drawn _ _ u          := ⟨rfl, rfl, .refl u⟩

theorem exec_raisedOf {i : Instr} {s t : State} (hwf : i.wf = true) (h : exec i s = .next t) :
    RaisedOf (raisesVector i) s t := (exec_keeps hwf (raised_allows i s) h).elim NothingRaised.raisedOf id

/-! ### A word with no row (R386, R387) -/

/-- The trace latch changes at most the trace-pending flag and what a signal changes. -/
theorem State.latchTrace_updates (s : State) :
    ∃ p b b' at', s.latchTrace = ((s.setTracePend p).setBudget b b').setAttention at' := by
  rw [State.latchTrace_eq]
  split
  · exact ⟨_, _, _, _, rfl⟩
  · exact ⟨false, s.budget, s.budgetSaved, s.attention, rfl⟩

/-- The opcode fetch leaves memory, the device history and the registers but pc. -/
theorem afterFetch_core (s : State) : (afterFetch s).mem = s.mem ∧ (afterFetch s).devLog = s.devLog ∧
    (afterFetch s).d = s.d ∧ (afterFetch s).a = s.a ∧ (afterFetch s).usp = s.usp ∧ (afterFetch s).ssp = s.ssp ∧
    (afterFetch s).getSr = s.getSr ∧ (afterFetch s).config = s.config := by
  obtain ⟨p, b, b', at', h⟩ := s.latchTrace_updates
  simp [afterFetch, h, State.getSr]

/-- A raise leaves memory, the device history and every register but the pending vector. -/
theorem afterRaise_core (v : BitVec 8) (s : State) : (afterRaise v s).mem = s.mem ∧ (afterRaise v s).devLog = s.devLog ∧
    (afterRaise v s).d = s.d ∧ (afterRaise v s).a = s.a ∧ (afterRaise v s).usp = s.usp ∧ (afterRaise v s).ssp = s.ssp ∧
    (afterRaise v s).getSr = s.getSr ∧ (afterRaise v s).config = s.config := by
  simp [afterRaise, State.getSr]

theorem decodeOp_eq_error {w : Half} {e : DecodeError} (h : decodeOp w = .error e) : e = rejectName w.toNat := by
  unfold decodeOp at h
  split at h
  · cases h
  · cases h; rfl

/-- The vector of a word with no row is decided by its line. -/
theorem illegalVector_rejectName (c : Config) (w : Half) : illegalVector c (rejectName w.toNat) =
    if w.extractLsb' 12 4 = 0xA#4 then c.lineAVector
    else if w.extractLsb' 12 4 = 0xF#4 then c.lineFVector else 4 := by
  have hline (k : BitVec 4) : w.extractLsb' 12 4 = k ↔ bitsAt w.toNat 12 4 = k.toNat := by
    rw [← BitVec.toNat_inj, BitVec.extractLsb'_toNat, Nat.shiftRight_eq_div_pow]
    rfl
  simp only [hline]
  unfold rejectName
  split
  · rename_i h; rw [h]; rfl
  · rename_i h; rw [h]; rfl
  · rename_i hA hF
    exact ((if_neg hA).trans (if_neg hF)).symm

theorem execFetched_of_error {s : State} {e : DecodeError} (h : decodeOp s.ir = .error e) :
    execFetched s = .next (afterRaise (illegalVector s.config e) s.rewindPc) := by
  simp only [execFetched, h]
  exact run_raised (raiseIllegal_apply ..)

/-! ### The statements -/

/-- Settles O16: `RaisedOf` the vectors of the instruction. -/
theorem exceptionRegisters : Obligations.ExceptionRegisters := by
  intro i s t hwf h
  obtain ⟨hv, hbad, hsignal⟩ := exec_raisedOf hwf h
  exact ⟨hv, hbad, hsignal.imp_right fun ⟨hb, hs, ha⟩ => ⟨hb, hs, ha.trans s.signal_attention⟩⟩

/-- Settles O7: after the fetch pc goes back over the opcode word and the vector of its line is raised. -/
theorem stepIllegalWord : Obligations.StepIllegalWord := by
  refine ⟨fun s e he hf hd => ?_, rfl, rfl⟩
  obtain rfl := decodeOp_eq_error hd
  have hstep : step s = .next (afterRaise (illegalVector (afterFetch s).config (rejectName (s.streamWord 0).toNat))
      (afterFetch s).rewindPc) :=
    calc step s = execOne s := step_eq_of_enabled he
      _ = execFetched (afterFetch s) := execOne_of_fetchable hf
      _ = _ := execFetched_of_error hd
  obtain ⟨fm, fl, fd, fa, fu, fs, fr, fc⟩ := afterFetch_core s
  obtain ⟨rm, rl, rd, ra, ru, rs, rr, -⟩ := afterRaise_core
    (illegalVector (afterFetch s).config (rejectName (s.streamWord 0).toNat)) (afterFetch s).rewindPc
  refine ⟨_, hstep, ?_, rm.trans fm, rl.trans fl, rd.trans fd, ra.trans fa, ru.trans fu, rs.trans fs, rr.trans fr, ?_⟩
  · exact (State.signal_pc _).trans (BitVec.add_sub_cancel s.pc 2)
  · rw [fc, illegalVector_rejectName]
    exact State.signal_pendVec _

end Sys2Proof.Machine
end

section
/-! SUPPORT. The family Exceptions, the mode: no instruction run in user mode leaves it, and in supervisor mode five
can; a delivery and reset end in supervisor mode; the proofs of UserModeConfined and ModeChanges. -/
namespace Sys2Proof.Machine

/-! ### User mode (R434, R435) -/

theorem writesSr_of_not_isPrivileged {i : Instr} (h : isPrivileged i = false) : writesSr i = false := by
  cases i with
  | moveToSr | andiToSr | oriToSr | eoriToSr | stop | rte => cases h
  | _ => rfl

theorem exec_user_confined {i : Instr} {s t : State} (hwf : i.wf = true) (hs : s.sup = false) (h : exec i s = .next t) :
    t.sup = false ∧ t.t = s.t ∧ t.imask = s.imask ∧ t.usp = s.usp ∧ t.ssp = s.ssp ∧ t.halted = s.halted := by
  cases hp : isPrivileged i with
  | true =>
    rw [exec_privileged_user hp hs] at h
    cases h
    simp [afterRaise, State.rewindPc, hs]
  | false =>
    have hsr := writesSr_of_not_isPrivileged hp
    obtain ⟨-, -, hstatus⟩ := (exec_keeps hwf (statusKept_allows i s) h).elim id id
    obtain ⟨ht, hsup, hmask⟩ := hstatus hsr
    have hk : SpecialKept i s t := (exec_keeps hwf (specialKept_allows i s) h).elim id id
    obtain ⟨-, hssp, husp⟩ := hk.stackPtrs hsr
    refine ⟨hsup.trans hs, ht, hmask, husp.resolve_right ?_, hssp, hk.halted.resolve_right ?_⟩
    · rintro ⟨n, rfl⟩
      cases hp
    · rintro ⟨rfl, -⟩
      cases hp

/-! ### A relation between the modes before and after -/

/-- From s to t the mode went as r says. -/
structure ModeRel (r : Bool → Bool → Prop) (s t : State) : Prop where
  config : t.config = s.config
  sup    : r s.sup t.sup

section
variable {r : Bool → Bool → Prop} {s t : State}

/-- An update that leaves the mode alone. -/
theorem ModeRel.of_eq (hr : ∀ b, r b b) (hs : t.sup = s.sup) (hc : t.config = s.config) : ModeRel r s t :=
  ⟨hc, hs ▸ hr s.sup⟩

theorem modeRel_stable (hr : ∀ b, r b b) (ht : ∀ a b c, r a b → r b c → r a c) : Stable (ModeRel r) (ModeRel r) where
  refl _              := .of_eq hr rfl rfl
  trans _ _ _ h h'    := ⟨h'.config.trans h.config, ht _ _ _ h.sup h'.sup⟩
  before _ _ _ h h'   := ⟨h'.config.trans h.config, ht _ _ _ h.sup h'.sup⟩
  config _ _ h        := h.config
  load _ _ s _        := .of_eq hr (s.afterLoad_sup ..) (s.afterLoad_config ..)
  pc _ _ _            := .of_eq hr rfl rfl
  addrErr _ _ _ _     := .of_eq hr (State.signal_sup _) (State.signal_config _)

theorem modeEq_stable : Stable (ModeRel Eq) (ModeRel Eq) := modeRel_stable (fun _ => rfl) (fun _ _ _ => Eq.trans)

theorem modeLe_stable : Stable (ModeRel (· ≤ ·)) (ModeRel (· ≤ ·)) :=
  modeRel_stable (fun _ => le_rfl) (fun _ _ _ => le_trans)

end

/-! ### Entering and leaving supervisor mode (R435) -/

section
variable {i : Instr} {s t : State}

/-- A delivery never leaves supervisor mode. -/
theorem deliverAs_sup {v : BitVec 8} {l : Option (BitVec 3)} (h : deliverAs v l s = .next t) (hs : s.sup = true) :
    t.sup = true := by
  have hk : KeepsAt (ModeRel (· ≤ ·)) (ModeRel (· ≤ ·)) (deliver v l) s :=
    keeps_deliver modeLe_stable (fun _ _ => .of_eq (fun _ => le_rfl) rfl rfl)
      (fun l u => ⟨u.enterHandler_config l, (u.enterHandler_sup l).symm ▸ Bool.le_true _⟩)
      (fun _ _ _ u _ => .of_eq (fun _ => le_rfl) (u.afterStore_sup ..) (u.afterStore_config ..)) v l s
  have hle : ModeRel (· ≤ ·) s t := by
    rcases deliverAs_next h with ho | ⟨hr, -⟩
    · exact hk.1 _ _ ho
    · exact hk.2 _ hr
  exact Bool.eq_true_of_true_le (hs ▸ hle.sup)

/-- ORI to SR cannot clear S. -/
theorem exec_oriToSr_sup (hs : s.sup = true) (h : exec .oriToSr s = .next t) : t.sup = true := by
  rw [exec_privileged_supervisor rfl hs] at h
  have hk : Keeps (ModeRel (· ≤ ·)) (ModeRel (· ≤ ·)) (logicImmSrBody (· ||| ·)) :=
    keeps_bind modeLe_stable (keeps_fetchWord modeLe_stable) fun imm => keeps_modify fun u => by
      refine ⟨u.putSr_config _, ?_⟩
      rw [State.putSr_sup, BitVec.getLsbD_or, State.getSr_bit u 13 (by decide)]
      exact Bool.left_le_or _ _
  exact Bool.eq_true_of_true_le (hs ▸ ((keepsAt_run (hk s) h).elim id id).sup)

/-- The instructions that can leave supervisor mode. -/
theorem exec_leaves_supervisor (hwf : i.wf = true) (hs : s.sup = true) (ht : t.sup = false) (h : exec i s = .next t) :
    i = .rte ∨ (∃ e, i = .moveToSr e) ∨ i = .andiToSr ∨ i = .eoriToSr ∨ i = .stop := by
  cases hsr : writesSr i with
  | false =>
    obtain ⟨-, -, hstatus⟩ := (exec_keeps hwf (statusKept_allows i s) h).elim id id
    obtain ⟨-, hsup, -⟩ := hstatus hsr
    simp [hsup, hs] at ht
  | true =>
    cases i with
    | oriToSr => simp [exec_oriToSr_sup hs h] at ht
    | moveToSr | andiToSr | eoriToSr | stop | rte => simp
    | _ => cases hsr

theorem afterFetch_sup (s : State) : (afterFetch s).sup = s.sup := by
  obtain ⟨p, b, b', at', h⟩ := s.latchTrace_updates
  simp [afterFetch, h]

theorem fetchOpcode_modeEq : Keeps (ModeRel Eq) (ModeRel Eq) fetchOpcode :=
  keeps_fetchOpcode modeEq_stable
    (fun s => by
      obtain ⟨p, b, b', at', h⟩ := s.latchTrace_updates
      exact ⟨by simp [h], by simp [h]⟩)
    (fun _ _ => ⟨rfl, rfl⟩)

/-- ExecOne changes the mode in the decoded instruction alone. -/
theorem execOne_sup (h : execOne s = .next t) :
    t.sup = s.sup ∨ ∃ i, decodeOp (s.streamWord 0) = .ok i ∧ exec i (afterFetch s) = .next t := by
  rcases execOne_next h with hr | ⟨-, hx⟩
  · exact .inl ((fetchOpcode_modeEq s).2 _ hr).sup.symm
  · rcases execFetched_next hx with ⟨i, hd, hi⟩ | ⟨e, -, rfl⟩
    · exact .inr ⟨i, hd, hi⟩
    · exact .inl ((State.signal_sup _).trans (afterFetch_sup s))

theorem execOne_user (hs : s.sup = false) (h : execOne s = .next t) : t.sup = false := by
  rcases execOne_sup h with hsup | ⟨i, hd, hi⟩
  · exact hsup.trans hs
  · exact (exec_user_confined (decodeOp_wf hd) ((afterFetch_sup s).trans hs) hi).1

theorem resetControl_sup (s : State) : (resetControl s).sup = true := by simp [resetControl]

/-- After the control part of the reset sequence nothing changes the mode. -/
theorem hostReset_sup (h : hostReset s = .next t) : t.sup = true := by
  have hS := modeEq_stable
  rw [hostReset, resetSequence, run_modify_bind] at h
  have hk : ModeRel Eq (resetControl s) t := by
    refine (keepsAt_run ?_ h).elim id id
    refine keeps_bind hS (keeps_memRead hS _ _) (fun _ => keeps_bind hS (keeps_modify fun _ => ?_)
      fun _ => keeps_bind hS (keeps_memRead hS _ _) fun _ => keeps_modify fun _ => ?_) _
    · exact ⟨by simp, by simp⟩
    · exact ⟨rfl, rfl⟩
  exact hk.sup.symm.trans (resetControl_sup s)

end

/-! ### The statements -/

/-- Settles O59: a privileged instruction goes no further than its check, and no other writes these registers. -/
theorem userModeConfined : Obligations.UserModeConfined := fun _ _ _ => exec_user_confined

/-- Settles O60: the step by its transition. -/
theorem modeChanges : Obligations.ModeChanges := by
  refine ⟨fun s t h => ?_, fun _ _ => hostReset_sup⟩
  rcases step_next h with ⟨he, hd⟩ | ⟨he, hd⟩ | ⟨he, hd⟩ | ⟨-, rfl⟩ | ⟨he, hx⟩
  · exact ⟨fun _ _ => .inl he, fun hs ht => by simp [deliverAs_sup hd hs] at ht⟩
  · exact ⟨fun _ _ => .inr (.inl he), fun hs ht => by simp [deliverAs_sup hd hs] at ht⟩
  · exact ⟨fun _ _ => .inr (.inr he), fun hs ht => by simp [deliverAs_sup hd hs] at ht⟩
  · exact ⟨fun hs ht => by simp [hs] at ht, fun hs ht => by simp [hs] at ht⟩
  · refine ⟨fun hs ht => by simp [execOne_user hs hx] at ht, fun hs ht => ⟨he, ?_⟩⟩
    rcases execOne_sup hx with hsup | ⟨i, hd, hi⟩
    · simp [hsup, hs] at ht
    · exact ⟨i, hd, exec_leaves_supervisor (decodeOp_wf hd) ((afterFetch_sup s).trans hs) ht hi⟩

end Sys2Proof.Machine
end

section
/-! SUPPORT. The family Reset: the reset sequence with its two longs in RAM, and what a signal makes of the budget pair;
the proofs of HostSignals and ResetState. -/
namespace Sys2Proof.Machine

theorem State.signal_setIpl (s : State) (l : BitVec 3) : (s.setIpl l).signal = s.signal.setIpl l := by
  rw [State.signal_eq, State.signal_eq]
  rfl

theorem hostRaiseInterrupt_of_ne_zero {l : BitVec 3} (s : State) (h : l ≠ 0) :
    hostRaiseInterrupt l s = .next (s.signal.setIpl l) :=
  (if_neg h).trans (congrArg _ (s.signal_setIpl l))

theorem resetControl_mem (s : State) : (resetControl s).mem = s.mem := by simp [resetControl]

theorem resetControl_config (s : State) : (resetControl s).config = s.config := by simp [resetControl]

/-- The reset of the host with the longs at 0 and 4 in RAM (R460). -/
theorem hostReset_ram {s : State} (h0 : inRam s.config .l 0 = true) (h4 : inRam s.config .l 4 = true) :
    hostReset s =
      let sp := Memory.load s.mem .l (busAddr s.config 0)
      .next ((((resetControl s).setSsp sp).setA 7 sp).setPc (Memory.load s.mem .l (busAddr s.config 4))) := by
  rw [← resetControl_config] at h0 h4
  rw [hostReset, resetSequence, run_modify_bind, run_bind_ok (memRead_ram h0 rfl), run_modify_bind,
    run_bind_ok (memRead_ram (by simpa using h4) rfl), run_modify]
  simp only [State.setA_mem, State.setSsp_mem, State.setA_config, State.setSsp_config, resetControl_mem,
    resetControl_config]

/-- Settles O10: the level is recorded and signalled; the halt request is the STOP state. -/
theorem hostSignals : Obligations.HostSignals := by
  refine ⟨fun l s hl => ⟨_, hostRaiseInterrupt_of_ne_zero s hl, ?_⟩, fun _ => ⟨rfl, rfl⟩⟩
  simp [State.signal_eq, State.getSr]

/-- Settles O4: at reset the empty memory reads 0; the host's reset reads the same two longs from RAM. -/
theorem resetState : Obligations.ResetState := by
  refine ⟨⟨rfl, rfl, rfl, rfl, rfl, rfl, rfl, rfl, rfl, rfl, rfl, rfl, rfl⟩, fun s h0 h4 => ?_⟩
  refine ⟨_, hostReset_ram h0 h4, ?_⟩
  simp [resetControl]

end Sys2Proof.Machine
end
